-- ==== Sys2Proof/Word.lean ====
section
/-! DEFINITION. The word types of the block: one name for each width the spec uses. -/

namespace Sys2Proof

/-- A byte of the stream, of the window or of the packet buffer (rules R20, R22, R60). -/
abbrev Byte := BitVec 8

/-- A uint16 field, or the CRC register (rules R100, R107). -/
abbrev Half := BitVec 16

/-- A 32-bit value: the marker, or a float32 pattern (rules R84, R101). -/
abbrev Word := BitVec 32

/-- The command word CMD[11:0] sampled in a step (rule R60). -/
abbrev Cmd := BitVec 12

/-- A session counter, CNT_W = 32 bits wide (rules R6, R28, R29). -/
abbrev Counter := BitVec 32

/-- The record bus o_rec (rule R33). -/
abbrev Record := BitVec 480

end Sys2Proof
end

