-- ==== Sys2Proof/Config.lean ====
section
/-! DEFINITION. The constants of rule R6, fixed for this hardware (rule R7), and the one free value of the model. -/

namespace Sys2Proof

/-- `MARKER` (rule R6). -/
def Config.marker : Word := 0xFEEFFFEF#32

/-- `MARKER_BYTES`, in stream order (rules R6, R49; conflict C1). -/
def Config.markerBytes : List Byte := [0xEF#8, 0xFF#8, 0xEF#8, 0xFE#8]

/-- `SYNC_ALPHABET` (rules R6, R81; decision D5, log entry 9). -/
def Config.syncAlphabet : List Byte := [0xEF#8, 0xFE#8, 0xFF#8]

/-- `WIN_LEN`, the bytes the detector compares (rule R6). Between steps one fewer is stored (rule R21). -/
def Config.winLen : Nat := 4

/-- `PKT_SIZE` (rule R6). -/
def Config.pktSize : Nat := 60

/-- `CRC_SKIP`, the leading bytes the checksum leaves out (rules R6, R110). -/
def Config.crcSkip : Nat := 4

/-- `CRC_POLY`, reflected (rule R6). -/
def Config.crcPoly : Half := 0xA001#16

/-- `CRC_INIT` (rule R6). -/
def Config.crcInit : Half := 0xFFFF#16

/-- `CRC_XOROUT`: no final XOR (rule R6). -/
def Config.crcXorOut : Half := 0x0000#16

/-- `CNT_W`, the width of `Counter` (rule R6; decision D6). -/
def Config.cntW : Nat := 32

/-- FREE VALUE. The command word the host drives in a step for which `State.inputs` holds none; the argument is the
number of such words drawn before. The spec leaves the host free to drive any word in any step (rules R60, R117), so
nothing constrains it (log entry 2). DESIGN CHOICE, safe. -/
opaque Config.hostCommand : Nat → Cmd

end Sys2Proof
end

