-- ==== Sys2Proof/Syntax.lean ====
section
/-! DEFINITION. The operations of the command word: one constructor per row of spec/opcode_table.json. -/

namespace Sys2Proof

/-- The operation of a step (30_encoding.md rule R62). Bits a row marks `x` are no part of it (rule R64). -/
inductive Instr where
  /-- RESET, rule R127. -/
  | reset
  /-- STOP, rule R141. -/
  | stop
  /-- SRCERR, rule R142. -/
  | srcerr
  /-- BYTE `d`, rules R129 to R131. `d` is the only operand field (rule R63). -/
  | byte (d : Byte)
  /-- IDLE, rule R128. -/
  | idle
deriving DecidableEq, Repr

end Sys2Proof
end

