-- ==== Sys2Proof/Stimulus.lean ====
section
/-! DEFINITION. The lines of a stimulus program (30_encoding.md rules R69, R70) as syntax. Their expansion to command
words stands in Sys2Proof/Machine/Stimulus.lean, their well-formedness in Sys2Proof/WellFormed.lean. -/

namespace Sys2Proof

/-- One line of a stimulus program. The notations `v xN` and `NAME[i..j]` of rule R70 are lists
(`List.replicate`, `Machine.sliceIncl`). -/
inductive Stim where
  /-- `reset`, `stop`, `srcerr`, `byte 0xHH`, `idle` (rule R69). -/
  | op (i : Instr)
  /-- `bytes b0, ..., bn`. -/
  | bytes (bs : List Byte)
  /-- `marker`. -/
  | marker
  /-- `u16 v`. -/
  | u16 (v : Half)
  /-- `f32 v`, `v` a 32-bit pattern. -/
  | f32 (v : Word)
  /-- `packet se, f0..f5, u0..u15`: the crc is computed. -/
  | packet (se : Half) (f : List Word) (u : List Half)
  /-- `badpacket se, c, f0..f5, u0..u15`: the crc is given. -/
  | badpacket (se c : Half) (f : List Word) (u : List Half)
  /-- `frame ...`: `marker`, then `packet ...`. -/
  | frame (se : Half) (f : List Word) (u : List Half)
deriving DecidableEq, Repr

end Sys2Proof
end

