-- ==== Sys2Proof/WellFormed.lean ====
section
/-! DEFINITION. Which terms of the syntax are well formed. Rule R64 makes every operation legal, so `Instr.wellFormed`
refuses nothing and a natural number is checked to be a 12-bit command word instead; a stimulus line must have the six
float32 patterns and sixteen uint16 values of the packet layout (rules R67, R70). -/

namespace Sys2Proof

/-- Every operation is well formed: the operand field is exactly 8 bits and no encoding is reserved (rules R63, R64). -/
def Instr.wellFormed : Instr → Bool
  | .reset => true
  | .stop => true
  | .srcerr => true
  | .byte _ => true
  | .idle => true

/-- A number is a command word when it fits the 12 bits of rule R60. -/
def isCommandWord (n : Nat) : Bool := n < 4096

/-- The field lists of a packet line: `f0..f5` and `u0..u15` (rule R70). -/
def packetFieldsOk (f : List Word) (u : List Half) : Bool := f.length == 6 && u.length == 16

/-- A stimulus line whose packet, if it has one, is 60 bytes long (rules R65, R70). -/
def Stim.wellFormed : Stim → Bool
  | .op i => i.wellFormed
  | .bytes _ => true
  | .marker => true
  | .u16 _ => true
  | .f32 _ => true
  | .packet _ f u => packetFieldsOk f u
  | .badpacket _ _ f u => packetFieldsOk f u
  | .frame _ f u => packetFieldsOk f u

end Sys2Proof
end

