-- ==== Sys2Proof/Decode.lean ====
section
/-! DEFINITION. Decoding and encoding the command word (30_encoding.md rules R60 to R64, R69). -/

namespace Sys2Proof

/-- A row of the operation table of rule R62. -/
structure OpRow where
  /-- The operation's name in spec/opcode_table.json. -/
  mnemonic : String
  /-- The bits the row looks at. -/
  mask : Cmd
  /-- Their values. -/
  pattern : Cmd
deriving DecidableEq, Repr

/-- The operation table of rule R62, in its order. -/
def opRows : List OpRow :=
  [ { mnemonic := "RESET", mask := 0x800#12, pattern := 0x800#12 },
    { mnemonic := "STOP", mask := 0xC00#12, pattern := 0x400#12 },
    { mnemonic := "SRCERR", mask := 0xE00#12, pattern := 0x200#12 },
    { mnemonic := "BYTE", mask := 0xF00#12, pattern := 0x100#12 },
    { mnemonic := "IDLE", mask := 0xF00#12, pattern := 0x000#12 } ]

/-- `(CMD & mask) = match` (rule R62). -/
def OpRow.covers (r : OpRow) (w : Cmd) : Bool := w &&& r.mask == r.pattern

/-- `CMD[11]`, the port `rst` (rule R60). -/
def cmdRst (w : Cmd) : Bool := w.getLsbD 11

/-- `CMD[10]`, the port `stop` (rule R60). -/
def cmdStop (w : Cmd) : Bool := w.getLsbD 10

/-- `CMD[9]`, the port `src_err` (rule R60). -/
def cmdSrcErr (w : Cmd) : Bool := w.getLsbD 9

/-- `CMD[8]`, the port `in_valid` (rule R60). -/
def cmdInValid (w : Cmd) : Bool := w.getLsbD 8

/-- `CMD[7:0]`, the port `in_data` and the operand `d` of BYTE (rules R60, R63). -/
def cmdData (w : Cmd) : Byte := w.extractLsb' 0 8

/-- The operation of a command word, by the priority of rule R62. Every word has one (rule R64): what the first four
rows leave is the IDLE row. -/
def decode (w : Cmd) : Instr :=
  if w &&& 0x800#12 = 0x800#12 then .reset
  else if w &&& 0xC00#12 = 0x400#12 then .stop
  else if w &&& 0xE00#12 = 0x200#12 then .srcerr
  else if w &&& 0xF00#12 = 0x100#12 then .byte (cmdData w)
  else .idle

/-- Why a number is not decoded. -/
inductive DecodeError where
  /-- The number does not fit the 12 bits of the command word (rule R63: one format, one length). -/
  | notACommandWord
deriving DecidableEq, Repr

/-- Decode a number as a command word, refusing by name what has more than 12 bits. -/
def decodeNumber (n : Nat) : Except DecodeError Instr :=
  if isCommandWord n then .ok (decode (BitVec.ofNat 12 n)) else .error .notACommandWord

/-- The command word of an operation, its `x` bits 0 (rule R69). -/
def encode : Instr → Cmd
  | .reset => 0x800#12
  | .stop => 0x400#12
  | .srcerr => 0x200#12
  | .byte d => 0x100#12 ||| d.setWidth 12
  | .idle => 0x000#12

/-- The bits of a command word that its operation reads: those its row does not mark `x` (rules R63, R64). -/
def careBits : Instr → Cmd
  | .reset => 0x800#12
  | .stop => 0xC00#12
  | .srcerr => 0xE00#12
  | .byte _ => 0xFFF#12
  | .idle => 0xF00#12

/-- The operation of a word numbered as spec/opcode_table.json numbers it: bit 0 is `CMD[0]`, and bits at or above
`nbits` are 0. The command word is one word of 12 bits, so there is nothing else to lay out. -/
def decodeTableWord (nbits w : Nat) : Option Instr :=
  match decodeNumber (w % 2 ^ nbits) with
  | .ok i => some i
  | .error _ => none

end Sys2Proof
end

