-- ==== Sys2Proof/Machine/State.lean ====
section
/-! DEFINITION. The architectural state (10_state.md), the state right after reset (rule R39), and the reasons a step
can stop. -/

namespace Sys2Proof.Machine

/-- `fsm = 0b00`, SEEKING_SYNC (rule R24). -/
abbrev Fsm.seekingSync : BitVec 2 := 0b00#2

/-- `fsm = 0b01`, COLLECTING (rule R24). -/
abbrev Fsm.collecting : BitVec 2 := 0b01#2

/-- `fsm = 0b10`, HALTED (rules R24, R25). -/
abbrev Fsm.halted : BitVec 2 := 0b10#2

/-- `fsm = 0b11`, never written by any rule (rule R24). -/
abbrev Fsm.unused : BitVec 2 := 0b11#2

/-- `halt_cause = 0`, NONE (rule R30). -/
abbrev HaltCause.none : BitVec 2 := 0#2

/-- `halt_cause = 1`, STOPPED (rule R30). -/
abbrev HaltCause.stopped : BitVec 2 := 1#2

/-- `halt_cause = 2`, SOURCE_UNAVAILABLE (rule R30). -/
abbrev HaltCause.sourceUnavailable : BitVec 2 := 2#2

/-- `halt_cause = 3`, never written (rule R30). -/
abbrev HaltCause.unused : BitVec 2 := 3#2

/-- Every storage element of the block (rule R27), then three fields of the model's own: `resetDone` (rule R40, log
entry 3), `inputs` (log entry 1) and `freeCmds` (log entry 2). -/
structure State where
  /-- The window `W`, oldest byte first (rules R20, R21). -/
  win : List Byte
  /-- The packet buffer `B`: offsets with their bytes in canonical form, an unlisted offset holding 0x00 (rules R22,
  R39, R45; log entry 6). -/
  buf : List Host.Cell
  /-- `pkt_cnt`, the bytes collected so far (rules R22, R23). -/
  pktCnt : BitVec 6
  /-- `fsm`, the control register (rule R24). -/
  fsm : BitVec 2
  /-- `halt_cause` (rule R30). -/
  haltCause : BitVec 2
  /-- `sync_count` (rule R28). -/
  syncCount : Counter
  /-- `success_count` (rule R29). -/
  successCount : Counter
  /-- The strobe `o_sync` (rule R31). -/
  oSync : Bool
  /-- The strobe `o_rec_valid` (rule R32). -/
  oRecValid : Bool
  /-- `o_rec`, the record of the most recent validated packet (rule R33). -/
  oRec : Record
  /-- Whether a RESET has been taken since power-on (rules R40, R160). -/
  resetDone : Bool
  /-- The command words the host drives in the coming steps, the next step's first (rule R60). -/
  inputs : List Cmd
  /-- How many words of `Config.hostCommand` have been drawn. -/
  freeCmds : Nat
deriving DecidableEq, Repr

/-- The state right after reset: the table of rule R39, with no command placed by the host (log entries 1, 2). -/
def State.reset : State where
  win := []
  buf := []
  pktCnt := 0#6
  fsm := Fsm.seekingSync
  haltCause := HaltCause.none
  syncCount := 0#32
  successCount := 0#32
  oSync := false
  oRecValid := false
  oRec := 0#480
  resetDone := true
  inputs := []
  freeCmds := 0

/-- Why the model stops with a fault. None is reachable from reset: each names a state or value that the spec says a
model must fault on. -/
inductive Fault where
  /-- Raised by STOP, SRCERR, BYTE and IDLE in a state where no RESET has been taken since power-on (rules R40, R161).
  Safe: the spec gives such a step no result. -/
  | beforeFirstReset
  /-- Raised by STOP, SRCERR, BYTE and IDLE when `fsm = 0b11` (rule R24; 93_implementation_defined.md). Safe. -/
  | fsmUnused
  /-- Raised by STOP, SRCERR, BYTE and IDLE when `halt_cause = 3` (rule R30; 93_implementation_defined.md). Safe. -/
  | haltCauseUnused
  /-- Raised by STOP, SRCERR, BYTE and IDLE when `pkt_cnt` is 60 to 63 (rule R23; 93_implementation_defined.md). Safe. -/
  | pktCntUnused
  /-- Raised by STOP, SRCERR, BYTE and IDLE when the stored window is longer than the three registers of rule R20 can
  hold (log entry 5). Safe: no hardware state is stopped. -/
  | windowOverlong
  /-- Raised by a buffer write at an offset of 60 or more, which does not exist (rule R45). Safe, and reached by no
  operation. -/
  | noSuchOffset (offset : Nat)
  /-- Raised by the Frame Decoder for a packet that is not 60 bytes long (rules R103, R143). Safe, and reached by no
  operation (rule R96). -/
  | malformedFrame (length : Nat)
deriving DecidableEq, Repr

/-- Why the model gives an instruction no meaning. -/
inductive Refusal where
  /-- Raised by an arm of `exec` whose instruction has no meaning yet. No arm does. Safe. -/
  | notModelled (mnemonic : String)
deriving DecidableEq, Repr

/-- What a meaning answers. -/
abbrev Result := Host.Outcome State Fault Refusal

end Sys2Proof.Machine
end

