-- ==== Sys2Proof/Machine/Flags.lean ====
section
/-! DEFINITION. The flags of the block: the two strobes (10_state.md rules R31, R32; 45_operations.md rule R138). -/

namespace Sys2Proof.Machine

/-- `o_sync <- 0; o_rec_valid <- 0`, the start of every step that is not a RESET (rules R126, R138). -/
def clearStrobes (s : State) : State := { s with oSync := false, oRecValid := false }

/-- `o_sync <- 1` (rules R31, R129). -/
def raiseSync (s : State) : State := { s with oSync := true }

/-- `o_rec_valid <- 1` (rules R32, R131). -/
def raiseRecValid (s : State) : State := { s with oRecValid := true }

end Sys2Proof.Machine
end

