-- ==== Sys2Proof/Machine/Operands.lean ====
section
/-! DEFINITION. Byte order and operand assembly: little-endian everywhere (20_memory.md rules R48, R50; 30_encoding.md
rule R68). -/

namespace Sys2Proof.Machine

/-- `Σ S[k] << (8k)`: a byte sequence read little-endian, lowest offset least significant (rules R48, R50). -/
def leNat : List Byte → Nat
  | [] => 0
  | b :: bs => b.toNat + 256 * leNat bs

/-- `MemRead(i, n)` over a packet (rules R10, R50). -/
def memRead (p : List Byte) (i n : Nat) : BitVec (8 * n) := BitVec.ofNat (8 * n) (leNat ((p.drop i).take n))

/-- `LE32(b0, b1, b2, b3) = {b3, b2, b1, b0}` (rule R10). -/
def le32 (b0 b1 b2 b3 : Byte) : Word := b3 ++ b2 ++ b1 ++ b0

/-- The two bytes of a uint16 value, earliest first (rules R48, R70). -/
def u16Bytes (v : Half) : List Byte := [v.extractLsb' 0 8, v.extractLsb' 8 8]

/-- The four bytes of a 32-bit pattern, earliest first (rules R48, R70). -/
def f32Bytes (v : Word) : List Byte :=
  [v.extractLsb' 0 8, v.extractLsb' 8 8, v.extractLsb' 16 8, v.extractLsb' 24 8]

/-- `S[i..j]`, both ends included (rule R9). -/
def sliceIncl {α : Type} (l : List α) (i j : Nat) : List α := (l.drop i).take (j + 1 - i)

end Sys2Proof.Machine
end

