-- ==== Sys2Proof/Machine/Ops.lean ====
section
/-! DEFINITION. The operations the meanings share: the packet buffer's bytes, the input commands, the states a model
must fault on, the frame of every step that is not a RESET, entering HALTED (the block's one trap-like transition,
rule R149) and RESET (the only way out of it, rule R150). -/

namespace Sys2Proof.Machine

/-- Byte `a` of the buffer. An unlisted offset holds 0x00, the reset contents (rule R39; log entry 6). -/
def Memory.read : List Host.Cell → Nat → Byte
  | [], _ => 0#8
  | c :: m, a => if c.1 = a then c.2 else Memory.read m a

/-- Put a cell before the first one with a greater offset. -/
def Memory.insert (c : Host.Cell) : List Host.Cell → List Host.Cell
  | [] => [c]
  | d :: m => if c.1 < d.1 then c :: d :: m else d :: Memory.insert c m

/-- Set byte `a`, keeping the canonical form: the old cell goes, and 0x00, which an unlisted offset holds, is not
listed. -/
def Memory.write (m : List Host.Cell) (a : Nat) (v : Byte) : List Host.Cell :=
  let rest := m.filter fun c => c.1 ≠ a
  if v = 0#8 then rest else Memory.insert (a, v) rest

/-- The canonical form: offsets strictly rising, each one an offset of rule R45, and no 0x00 listed. -/
abbrev Memory.wf (m : List Host.Cell) : Prop :=
  m.Pairwise (fun c d => c.1 < d.1) ∧ ∀ c ∈ m, c.1 < Config.pktSize ∧ c.2 ≠ 0#8

/-- `MemWrite(i, 1, v)` on the buffer (rule R51). Offsets of 60 and more do not exist (rule R45). -/
def storeByte (i : Nat) (v : Byte) (s : State) : Except Fault State :=
  if i < Config.pktSize then .ok { s with buf := Memory.write s.buf i v } else .error (.noSuchOffset i)

/-- Sample the command word of the step (rules R11, R60): the next one the host placed, or a free one
(log entries 1, 2). -/
def sampleCommand (s : State) : Cmd × State :=
  match s.inputs with
  | w :: ws => (w, { s with inputs := ws })
  | [] => (Config.hostCommand s.freeCmds, { s with freeCmds := s.freeCmds + 1 })

/-- The fault of a state in which the spec gives no operation but RESET a result: no RESET yet (rule R40), or a value
that no rule writes (rules R20, R23, R24, R30; 93_implementation_defined.md). -/
def stateFault (s : State) : Option Fault :=
  if s.resetDone = false then some .beforeFirstReset
  else if s.fsm = Fsm.unused then some .fsmUnused
  else if s.haltCause = HaltCause.unused then some .haltCauseUnused
  else if Config.pktSize ≤ s.pktCnt.toNat then some .pktCntUnused
  else if Config.winLen ≤ s.win.length then some .windowOverlong
  else none

/-- What every step that is not a RESET does before its own operation (rule R126): clear the strobes (rule R138), and
in HALTED nothing more (rule R139). -/
def running (s : State) (k : State → Result) : Result :=
  match stateFault s with
  | some f => .fault f
  | none => if s.fsm = Fsm.halted then .next (clearStrobes s) else k (clearStrobes s)

/-- `Halt(cause)` (rule R140): the entry to HALTED, which saves nothing and discards the packet in progress. -/
def halt (cause : BitVec 2) (s : State) : State :=
  { s with fsm := Fsm.halted, haltCause := cause, pktCnt := 0#6 }

/-- RESET (rules R127, R39): every storage element takes its reset value. What the host will drive is not the block's
to clear. -/
def resetAll (s : State) : State := { State.reset with inputs := s.inputs, freeCmds := s.freeCmds }

end Sys2Proof.Machine
end

