-- ==== Sys2Proof/Machine/FrameDecoder.lean ====
section
/-! DEFINITION. The Frame Decoder (42_frame_decoder.md): the 24 fields of a packet, and the record bus they are
slices of. -/

namespace Sys2Proof.Machine

/-- The DecodedFrame `F`: the 24 rows of 30_encoding.md rule R67, in order (rule R98). float32 fields are raw patterns
(rule R101). -/
structure DecodedFrame where
  /-- Offset 0. Decoded and never checked (rule R105). -/
  syncEcho : Half
  /-- Offset 2. -/
  crc : Half
  /-- Offset 4. -/
  rollTarget : Word
  /-- Offset 8. -/
  rollMeas : Word
  /-- Offset 12. -/
  pitchTarget : Word
  /-- Offset 16. -/
  pitchMeas : Word
  /-- Offset 20. -/
  yawTarget : Word
  /-- Offset 24. -/
  yawMeas : Word
  /-- Offset 28. -/
  v1Target : Half
  /-- Offset 30. -/
  v2Target : Half
  /-- Offset 32. -/
  v3Target : Half
  /-- Offset 34. -/
  v4Target : Half
  /-- Offset 36. -/
  v1Meas : Half
  /-- Offset 38. -/
  v2Meas : Half
  /-- Offset 40. -/
  v3Meas : Half
  /-- Offset 42. -/
  v4Meas : Half
  /-- Offset 44. -/
  rollIn : Half
  /-- Offset 46. -/
  pitchIn : Half
  /-- Offset 48. -/
  yawIn : Half
  /-- Offset 50. -/
  throttleIn : Half
  /-- Offset 52. -/
  engineSpeedLimit : Half
  /-- Offset 54. -/
  engineSpeedTarget : Half
  /-- Offset 56. -/
  engineSpeed : Half
  /-- Offset 58. -/
  throttlePosition : Half
deriving DecidableEq, Repr

/-- The fields of a packet by `MemRead` (rule R99). -/
def fieldsOf (p : List Byte) : DecodedFrame where
  syncEcho := memRead p 0 2
  crc := memRead p 2 2
  rollTarget := memRead p 4 4
  rollMeas := memRead p 8 4
  pitchTarget := memRead p 12 4
  pitchMeas := memRead p 16 4
  yawTarget := memRead p 20 4
  yawMeas := memRead p 24 4
  v1Target := memRead p 28 2
  v2Target := memRead p 30 2
  v3Target := memRead p 32 2
  v4Target := memRead p 34 2
  v1Meas := memRead p 36 2
  v2Meas := memRead p 38 2
  v3Meas := memRead p 40 2
  v4Meas := memRead p 42 2
  rollIn := memRead p 44 2
  pitchIn := memRead p 46 2
  yawIn := memRead p 48 2
  throttleIn := memRead p 50 2
  engineSpeedLimit := memRead p 52 2
  engineSpeedTarget := memRead p 54 2
  engineSpeed := memRead p 56 2
  throttlePosition := memRead p 58 2

/-- `Decode(P)` (rules R97, R99): MalformedFrame unless `P` has 60 bytes (rule R103). -/
def decodeFrame (p : List Byte) : Except Fault DecodedFrame :=
  if p.length = Config.pktSize then .ok (fieldsOf p) else .error (.malformedFrame p.length)

/-- The record bus for a packet: byte `i` at bits `8i+7:8i` (rules R33, R102). -/
def packRecord (p : List Byte) : Record := BitVec.ofNat 480 (leNat p)

/-- Byte `i` of a record, `o_rec[8i+7:8i]` (rule R33). -/
def recordByte (r : Record) (i : Nat) : Byte := r.extractLsb' (8 * i) 8

/-- The 60 bytes of a record, in packet order (rules R33, R115). -/
def recordBytes (r : Record) : List Byte := (List.range Config.pktSize).map (recordByte r)

/-- The field of `size` bytes at `offset`, the slice `o_rec[8(offset+size)-1 : 8 offset]` (rule R102). -/
def recordField (r : Record) (offset size : Nat) : BitVec (8 * size) := r.extractLsb' (8 * offset) (8 * size)

/-- The 24 fields the host slices out of the record bus (rules R102, R118). -/
def recordFields (r : Record) : DecodedFrame where
  syncEcho := recordField r 0 2
  crc := recordField r 2 2
  rollTarget := recordField r 4 4
  rollMeas := recordField r 8 4
  pitchTarget := recordField r 12 4
  pitchMeas := recordField r 16 4
  yawTarget := recordField r 20 4
  yawMeas := recordField r 24 4
  v1Target := recordField r 28 2
  v2Target := recordField r 30 2
  v3Target := recordField r 32 2
  v4Target := recordField r 34 2
  v1Meas := recordField r 36 2
  v2Meas := recordField r 38 2
  v3Meas := recordField r 40 2
  v4Meas := recordField r 42 2
  rollIn := recordField r 44 2
  pitchIn := recordField r 46 2
  yawIn := recordField r 48 2
  throttleIn := recordField r 50 2
  engineSpeedLimit := recordField r 52 2
  engineSpeedTarget := recordField r 54 2
  engineSpeed := recordField r 56 2
  throttlePosition := recordField r 58 2

end Sys2Proof.Machine
end

