-- ==== Sys2Proof/Machine/PacketAssembler.lean ====
section
/-! DEFINITION. The Packet Assembler (41_packet_assembler.md). -/

namespace Sys2Proof.Machine

/-- `AsmReset()` (rule R93): the bytes stay where they are. -/
def asmReset (s : State) : State := { s with pktCnt := 0#6 }

/-- The offset the next fed byte is written to (rules R26, R91). -/
def feedOffset (s : State) : Nat := s.pktCnt.toNat

/-- `B[0..58] ++ [d]`, the packet a byte at offset 59 completes (rule R91). -/
def packetWith (m : List Host.Cell) (d : Byte) : List Byte :=
  (List.range (Config.pktSize - 1)).map (Memory.read m) ++ [d]

/-- `AsmFeed(d)` (rule R91): the state after, and the packet `P` when `done = 1`. -/
def asmFeed (d : Byte) (s : State) : Except Fault (State × Option (List Byte)) :=
  match storeByte (feedOffset s) d s with
  | .error f => .error f
  | .ok t =>
    if feedOffset s + 1 = Config.pktSize then .ok (asmReset t, some (packetWith s.buf d))
    else .ok ({ t with pktCnt := BitVec.ofNat 6 (feedOffset s + 1) }, none)

end Sys2Proof.Machine
end

