-- ==== Sys2Proof/Machine/SyncDetector.lean ====
section
/-! DEFINITION. The Sync Detector (40_sync_detector.md). -/

namespace Sys2Proof.Machine

/-- `SyncObserve(d)` of rule R83 on a window, for any alphabet and marker (93_implementation_defined.md makes the
alphabet a parameter): the result `hit` and the window after. -/
def syncObserveWith (alphabet : List Byte) (marker : Word) (w : List Byte) (d : Byte) : Bool × List Byte :=
  if d ∈ alphabet then
    match w with
    | w0 :: w1 :: w2 :: _ => if le32 w0 w1 w2 d = marker then (true, []) else (false, [w1, w2, d])
    | _ => (false, w ++ [d])
  else (false, w)

/-- `SyncObserve(d)` of this hardware (rules R6, R81, R83). -/
def syncObserve (w : List Byte) (d : Byte) : Bool × List Byte :=
  syncObserveWith Config.syncAlphabet Config.marker w d

/-- `hit`: the byte completes a marker, the source's "boundary found" (rule R80). -/
def isBoundary (s : State) (d : Byte) : Bool := (syncObserve s.win d).1

/-- The state after `SyncObserve(d)`, which writes `W` alone (rule R80). -/
def observeByte (d : Byte) (s : State) : State := { s with win := (syncObserve s.win d).2 }

/-- The windows and hits of a byte sequence fed to `SyncObserve` one byte after the other: the hits, then the last
window (rules R86 to R88). -/
def syncObserveAll : List Byte → List Byte → List Bool × List Byte
  | w, [] => ([], w)
  | w, d :: ds =>
    let r := syncObserve w d
    let rest := syncObserveAll r.2 ds
    (r.1 :: rest.1, rest.2)

/-- A byte that enters the window (rule R81). -/
def qualifying (d : Byte) : Bool := d ∈ Config.syncAlphabet

/-- `win_cnt = len(W)` (rule R20). -/
def State.winCnt (s : State) : BitVec 2 := BitVec.ofNat 2 s.win.length

/-- `win0`, `win1`, `win2`: none at or above `win_cnt`, where rule R20 gives the register no value. -/
def State.winReg (s : State) (k : Nat) : Option Byte := s.win[k]?

end Sys2Proof.Machine
end

