-- ==== Sys2Proof/Machine/Control.lean ====
section
/-! DEFINITION. The orchestration state machine and the meaning of each operation (45_operations.md). -/

namespace Sys2Proof.Machine

/-- The `hit = 1` branch of rule R126 (rule R129): count the boundary, start a fresh packet, raise `o_sync`. -/
def takeBoundary (s : State) : State :=
  raiseSync { asmReset s with syncCount := s.syncCount + 1#32, fsm := Fsm.collecting }

/-- The record hand-off of a packet that validates (rules R115, R131). -/
def emitRecord (p : List Byte) (s : State) : State :=
  raiseRecValid { s with oRec := packRecord p, successCount := s.successCount + 1#32 }

/-- `fsm <- SEEKING_SYNC` (rule R131). -/
def seekAgain (s : State) : State := { s with fsm := Fsm.seekingSync }

/-- DECODE_VALIDATE (rule R131): decode, validate, hand the record off or drop the packet silently (rule R144), and
return to SEEKING_SYNC. -/
def decodeValidate (p : List Byte) (s : State) : Result :=
  match decodeFrame p with
  | .error f => .fault f
  | .ok f => .next (seekAgain (if validate p f then emitRecord p s else s))

/-- The last branch of rule R126 (rule R131): feed the byte, and decode and validate when it completes the packet. -/
def collectByte (d : Byte) (s : State) : Result :=
  match asmFeed d s with
  | .error f => .fault f
  | .ok (t, none) => .next t
  | .ok (t, some p) => decodeValidate p t

/-- The byte of a consuming step (rules R126, R129 to R132): the Sync Detector first, then the state's own branch. -/
def consumeByte (d : Byte) (s : State) : Result :=
  if isBoundary s d then .next (takeBoundary (observeByte d s))
  else if s.fsm = Fsm.seekingSync then .next (observeByte d s)
  else collectByte d (observeByte d s)

/-- RESET (rule R127). It works from every state. -/
def execReset (s : State) : Result := .next (resetAll s)

/-- STOP (rule R141), the normal halt. -/
def execStop (s : State) : Result := running s fun t => .next (halt HaltCause.stopped t)

/-- SRCERR (rules R142, R145), the abnormal halt. -/
def execSrcerr (s : State) : Result := running s fun t => .next (halt HaltCause.sourceUnavailable t)

/-- BYTE `d` (rules R129 to R131). -/
def execByte (d : Byte) (s : State) : Result := running s (consumeByte d)

/-- IDLE (rule R128). -/
def execIdle (s : State) : Result := running s fun t => .next t

end Sys2Proof.Machine
end

