-- ==== Sys2Proof/Machine/Dispatch.lean ====
section
/-! DEFINITION. The dispatch of an operation to its meaning, one arm per constructor of Instr. -/

namespace Sys2Proof.Machine

def exec (i : Instr) (s : State) : Host.Outcome State Fault Refusal :=
  match i with
  | .reset => Sys2Proof.Machine.execReset s
  | .stop => Sys2Proof.Machine.execStop s
  | .srcerr => Sys2Proof.Machine.execSrcerr s
  | .byte d => Sys2Proof.Machine.execByte d s
  | .idle => Sys2Proof.Machine.execIdle s

end Sys2Proof.Machine
end

