-- ==== Sys2Proof/Machine/Step.lean ====
section
/-! DEFINITION. One step: sample the command word, decode it, run its operation (rules R11, R60, R62, R126). -/

namespace Sys2Proof.Machine

/-- One clock edge. -/
def step (s : State) : Host.Outcome State Fault Refusal :=
  exec (decode (sampleCommand s).1) (sampleCommand s).2

/-- The state in which the host drives the word `w` in the next step, and after it whatever it would have driven
(log entry 1). Bits at or above `nbits` are 0. -/
def State.withFetchWord (s : State) (nbits w : Nat) : State :=
  { s with inputs := BitVec.ofNat 12 (w % 2 ^ nbits) :: s.inputs }

end Sys2Proof.Machine
end

