-- ==== Sys2Proof/Machine/Stimulus.lean ====
section
/-! DEFINITION. The expansion of a stimulus program to the command words the host drives (30_encoding.md rules R69,
R70). -/

namespace Sys2Proof.Machine

/-- The 56 bytes of the fields at offsets 4 to 59 (rules R67, R70). -/
def payloadBytes (f : List Word) (u : List Half) : List Byte := f.flatMap f32Bytes ++ u.flatMap u16Bytes

/-- The 60 bytes of a packet with its crc field given (rules R67, R70). -/
def packetBytes (se c : Half) (f : List Word) (u : List Half) : List Byte :=
  u16Bytes se ++ u16Bytes c ++ payloadBytes f u

/-- The 60 bytes of a packet that passes validation: the crc field is computed (rule R70). -/
def goodPacketBytes (se : Half) (f : List Word) (u : List Half) : List Byte :=
  packetBytes se (crc16 (payloadBytes f u)) f u

/-- The BYTE words of a byte list (rule R70). -/
def byteCmds (bs : List Byte) : List Cmd := bs.map fun b => encode (.byte b)

/-- The command words a line expands to (rules R69, R70). -/
def stimCmds : Stim → List Cmd
  | .op i => [encode i]
  | .bytes bs => byteCmds bs
  | .marker => byteCmds Config.markerBytes
  | .u16 v => byteCmds (u16Bytes v)
  | .f32 v => byteCmds (f32Bytes v)
  | .packet se f u => byteCmds (goodPacketBytes se f u)
  | .badpacket se c f u => byteCmds (packetBytes se c f u)
  | .frame se f u => byteCmds Config.markerBytes ++ byteCmds (goodPacketBytes se f u)

/-- The command words of a program, one a step. -/
def programCmds (p : List Stim) : List Cmd := p.flatMap stimCmds

/-- The state in which the host drives a program's words in the coming steps (log entry 1). -/
def placeProgram (p : List Stim) (s : State) : State := { s with inputs := programCmds p ++ s.inputs }

end Sys2Proof.Machine
end

