-- ==== Sys2Proof/Machine/Outputs.lean ====
section
/-! DEFINITION. The outputs of the block (10_state.md rules R31 to R35; decision D7) and the consumption of a byte
(30_encoding.md rule R61). `o_sync`, `o_rec_valid` and `o_rec` are registers of `State`. -/

namespace Sys2Proof.Machine

/-- The combinational output `in_ready`, for the command word of the current step (rule R34). -/
def inReady (s : State) (w : Cmd) : Bool := s.fsm ≠ Fsm.halted && !cmdRst w && !cmdStop w && !cmdSrcErr w

/-- Whether the step consumes the offered byte (rule R61). -/
def consumes (s : State) (w : Cmd) : Bool := cmdInValid w && inReady s w

/-- `o_state` (rule R35). -/
def oState (s : State) : BitVec 2 := s.fsm

/-- `o_halt_cause` (rule R35). -/
def oHaltCause (s : State) : BitVec 2 := s.haltCause

/-- `o_sync_count` (rule R35). -/
def oSyncCount (s : State) : Counter := s.syncCount

/-- `o_success_count` (rule R35). -/
def oSuccessCount (s : State) : Counter := s.successCount

/-- Everything the host can read of a state (decision D7): neither the window nor the packet in progress is among it
(rule R35). -/
structure Outputs where
  /-- `o_sync`. -/
  sync : Bool
  /-- `o_rec_valid`. -/
  recValid : Bool
  /-- `o_rec`. -/
  record : Record
  /-- `o_state`. -/
  fsm : BitVec 2
  /-- `o_halt_cause`. -/
  haltCause : BitVec 2
  /-- `o_sync_count`. -/
  syncCount : Counter
  /-- `o_success_count`. -/
  successCount : Counter
deriving DecidableEq, Repr

/-- The registered outputs of a state (rules R31 to R33, R35). -/
def outputsOf (s : State) : Outputs where
  sync := s.oSync
  recValid := s.oRecValid
  record := s.oRec
  fsm := oState s
  haltCause := oHaltCause s
  syncCount := oSyncCount s
  successCount := oSuccessCount s

end Sys2Proof.Machine
end

