-- ==== Sys2Proof/Machine/Observe.lean ====
section
/-! DEFINITION. Runs of command words and what is observed of them (44_record_output.md rules R116, R119;
60_exceptions.md rule R154). -/

namespace Sys2Proof.Machine

/-- The steps of a list of command words, one word a step (rules R126, R154). -/
def runCmds : List Cmd → State → Result
  | [], s => .next s
  | w :: ws, s =>
    match exec (decode w) s with
    | .next t => runCmds ws t
    | .fault f => .fault f
    | .refused r => .refused r

/-- What one step of a run adds to its observation: the state before and the state after. -/
def stepsOf : List Cmd → State → List (State × State)
  | [], _ => []
  | w :: ws, s =>
    match exec (decode w) s with
    | .next t => (s, t) :: stepsOf ws t
    | .fault _ => []
    | .refused _ => []

/-- `Records(run)`: the values of `o_rec` after the steps that set `o_rec_valid` (rule R116). -/
def recordsOf (ws : List Cmd) (s : State) : List Record :=
  ((stepsOf ws s).filter fun p => p.2.oRecValid).map fun p => p.2.oRec

/-- `Syncs(run)`: how many steps set `o_sync` (rule R116). -/
def syncsOf (ws : List Cmd) (s : State) : Nat := (stepsOf ws s).countP fun p => p.2.oSync

/-- How many packet attempts a next boundary abandoned: a boundary in COLLECTING (rules R119, R129). -/
def abandonedOf (ws : List Cmd) (s : State) : Nat :=
  (stepsOf ws s).countP fun p => p.1.fsm == Fsm.collecting && p.2.oSync

/-- How many packet attempts completed with a checksum mismatch: COLLECTING left for SEEKING_SYNC without a record
(rules R119, R131, R144). A RESET in COLLECTING looks the same, so this reads runs without one. -/
def mismatchedOf (ws : List Cmd) (s : State) : Nat :=
  (stepsOf ws s).countP fun p => p.1.fsm == Fsm.collecting && p.2.fsm == Fsm.seekingSync && !p.2.oRecValid

/-- How many packet attempts a halt cut off: COLLECTING left for HALTED (rules R119, R140). -/
def cutOffOf (ws : List Cmd) (s : State) : Nat :=
  (stepsOf ws s).countP fun p => p.1.fsm == Fsm.collecting && p.2.fsm == Fsm.halted

/-- The attempt still open when a run ends in COLLECTING (rule R119). -/
def collectingNow (s : State) : Nat := if s.fsm = Fsm.collecting then 1 else 0

/-- The bytes a run consumes, in consumption order: the input stream as the block sees it, each byte once (rules R47,
R61). -/
def consumedBytes : List Cmd → State → List Byte
  | [], _ => []
  | w :: ws, s =>
    match exec (decode w) s with
    | .next t => (if consumes s w then [cmdData w] else []) ++ consumedBytes ws t
    | .fault _ => []
    | .refused _ => []

/-- How many bytes a run consumes (rule R61). -/
def consumedOf (ws : List Cmd) (s : State) : Nat := (consumedBytes ws s).length

/-- The end of a run (rule R154). -/
inductive RunEnd where
  /-- The block has halted, with this cause. -/
  | halted (cause : BitVec 2)
  /-- The block is waiting for a byte: this many bytes of a packet in progress are neither output nor a failure. -/
  | waiting (collected : BitVec 6)
deriving DecidableEq, Repr

/-- How a run that ends in `s` ended (rule R154). -/
def runEndOf (s : State) : RunEnd := if s.fsm = Fsm.halted then .halted s.haltCause else .waiting s.pktCnt

/-- The observation of a run (rule R154): `Records(run)`, `Syncs(run)`, the final counters and `halt_cause`. -/
structure Observation where
  /-- `Records(run)`. -/
  records : List Record
  /-- `Syncs(run)`. -/
  syncs : Nat
  /-- The final `sync_count`. -/
  syncCount : Counter
  /-- The final `success_count`. -/
  successCount : Counter
  /-- The final `halt_cause`. -/
  haltCause : BitVec 2
  /-- How the run ended. -/
  runEnd : RunEnd
deriving DecidableEq, Repr

/-- The observation of the run of `ws` from `s`, if no step of it stops (rule R154). -/
def observationOf (ws : List Cmd) (s : State) : Option Observation :=
  match runCmds ws s with
  | .next t => some
      { records := recordsOf ws s, syncs := syncsOf ws s, syncCount := t.syncCount, successCount := t.successCount,
        haltCause := t.haltCause, runEnd := runEndOf t }
  | .fault _ => none
  | .refused _ => none

end Sys2Proof.Machine
end

