-- ==== Sys2Proof/Safety.lean ====
section
/-! DEFINITION. What a sound state is: the states in which every operation has a result, and the invariants of
10_state.md rule R38. -/

namespace Sys2Proof

open Sys2Proof.Machine

/-- A state in which every operation has a result: a RESET has been taken (rule R40), and no register holds a value that
the spec says a model must fault on (rules R20, R23, R24, R30; 93_implementation_defined.md). -/
structure Legal (s : State) : Prop where
  /-- A RESET has been taken. -/
  resetDone : s.resetDone = true
  /-- `fsm` holds one of its three states. -/
  fsm : s.fsm ≠ Fsm.unused
  /-- `halt_cause` holds one of its three codes. -/
  haltCause : s.haltCause ≠ HaltCause.unused
  /-- `pkt_cnt` is at most 59. -/
  pktCnt : s.pktCnt.toNat < 60
  /-- The window holds at most 3 bytes. -/
  win : s.win.length ≤ 3

/-- `Legal` in a state that is not HALTED: the states in which BYTE consumes its byte (rule R61). -/
structure Running (s : State) : Prop where
  /-- The state is legal. -/
  legal : Legal s
  /-- The block has not halted. -/
  notHalted : s.fsm ≠ Fsm.halted

/-- The invariants of rule R38, between any two steps after the first reset, with the canonical form of the buffer
(log entry 6) and the alphabet of the window's bytes (rule R83: only qualifying bytes enter it). -/
structure Invariants (s : State) : Prop where
  /-- "after the first reset". -/
  resetDone : s.resetDone = true
  /-- Invariant 1. -/
  win : s.win.length ≤ 3
  /-- Invariant 2. -/
  pktCnt : s.pktCnt.toNat ≤ 59
  /-- Invariant 3. -/
  fsm : s.fsm = Fsm.seekingSync ∨ s.fsm = Fsm.collecting ∨ s.fsm = Fsm.halted
  /-- Invariant 4. -/
  seeking : s.fsm = Fsm.seekingSync → s.pktCnt = 0#6
  /-- Invariant 5. -/
  halted : s.fsm = Fsm.halted →
    s.pktCnt = 0#6 ∧ (s.haltCause = HaltCause.stopped ∨ s.haltCause = HaltCause.sourceUnavailable)
  /-- Invariant 6. -/
  notHalted : s.fsm ≠ Fsm.halted → s.haltCause = HaltCause.none
  /-- Invariant 7. -/
  sync : s.oSync = true → s.fsm = Fsm.collecting ∧ s.pktCnt = 0#6
  /-- Invariant 8. -/
  recValid : s.oRecValid = true → s.fsm = Fsm.seekingSync ∧ s.pktCnt = 0#6
  /-- Invariant 9. -/
  strobes : ¬(s.oSync = true ∧ s.oRecValid = true)
  /-- The buffer is in canonical form. -/
  buf : Memory.wf s.buf
  /-- The window holds qualifying bytes only. -/
  alphabet : ∀ b ∈ s.win, qualifying b = true

/-- The boundary event: a consumed byte completes a marker (rules R12, R129). -/
def seesBoundary (i : Instr) (s : State) : Bool :=
  match i with
  | .byte d => s.fsm ≠ Fsm.halted && isBoundary s d
  | .reset => false
  | .stop => false
  | .srcerr => false
  | .idle => false

/-- The packet a consumed byte completes (rules R91, R131). -/
def completedPacket (i : Instr) (s : State) : Option (List Byte) :=
  match i with
  | .byte d =>
    if s.fsm = Fsm.collecting ∧ isBoundary s d = false ∧ s.pktCnt = 59#6 then some (packetWith s.buf d) else none
  | .reset => none
  | .stop => none
  | .srcerr => none
  | .idle => none

/-- Whether a packet passes validation (rule R111). -/
def packetOk (p : List Byte) : Bool := validate p (fieldsOf p)

/-- The ValidatedRecord of a step: a completed packet that passes validation (rules R12, R131). -/
def emittedPacket (i : Instr) (s : State) : Option (List Byte) := (completedPacket i s).filter packetOk

/-- The byte a step consumes (rule R61). -/
def consumedByte (i : Instr) (s : State) : Option Byte :=
  match i with
  | .byte d => if s.fsm = Fsm.halted then none else some d
  | .reset => none
  | .stop => none
  | .srcerr => none
  | .idle => none

/-- The offset a step writes in the packet buffer, RESET apart: the next offset of the packet in progress, when the
consumed byte is fed (rules R51, R91, R134). -/
def fedOffset (i : Instr) (s : State) : Option Nat :=
  match i with
  | .byte d => if s.fsm = Fsm.collecting ∧ isBoundary s d = false then some (feedOffset s) else none
  | .reset => none
  | .stop => none
  | .srcerr => none
  | .idle => none

/-- A run of command words none of which asserts `rst`. -/
def noReset (ws : List Cmd) : Prop := ∀ w ∈ ws, cmdRst w = false

/-- A safe step answers a next state: no fault and no refusal. -/
def SafeStep (s : State) : Prop := ∃ t, step s = .next t

end Sys2Proof
end

