-- ==== Sys2Proof/Certificates/Slice0/Obligations.lean ====
section
/-! DEFINITION. The statements for the provers: what the rules of the spec say the block does, as propositions about the
model. Each docstring names the rules it formalises. -/

open Sys2Proof Sys2Proof.Machine

/-! ### The command word -/

/-- R60, R62: which operation a word is, by the ports it asserts and their priority. -/
def Obligations.DecodeFollowsPortPriority : Prop :=
  ∀ w : Cmd,
    (decode w = .reset ↔ cmdRst w = true) ∧
    (decode w = .stop ↔ cmdRst w = false ∧ cmdStop w = true) ∧
    (decode w = .srcerr ↔ cmdRst w = false ∧ cmdStop w = false ∧ cmdSrcErr w = true) ∧
    (∀ d, decode w = .byte d ↔
      cmdRst w = false ∧ cmdStop w = false ∧ cmdSrcErr w = false ∧ cmdInValid w = true ∧ d = cmdData w) ∧
    (decode w = .idle ↔
      cmdRst w = false ∧ cmdStop w = false ∧ cmdSrcErr w = false ∧ cmdInValid w = false)

/-- R62, R64: every word matches exactly one row of the operation table. That the rows partition the words is the spec's
own inference (30_encoding.md section 1). -/
def Obligations.EveryWordMatchesExactlyOneRow : Prop :=
  ∀ w : Cmd, (opRows.filter fun r => r.covers w).length = 1

/-- R63, R64, R69: decoding and encoding agree, and a word decodes to an operation exactly when it has that operation's
encoding on the bits the row does not ignore; so no operand bit is dropped and every ignored bit is ignored. -/
def Obligations.DecodeEncodeAgree : Prop :=
  (∀ i : Instr, decode (encode i) = i) ∧
  (∀ (w : Cmd) (i : Instr), decode w = i ↔ w &&& careBits i = encode i)

/-- R62 (and OP1 to OP11 of 95_test_vectors.md): a few words written out from the table. -/
def Obligations.TableWordsDecode : Prop :=
  decode 0x800#12 = .reset ∧ decode 0xC00#12 = .reset ∧ decode 0x400#12 = .stop ∧ decode 0x5EF#12 = .stop ∧
  decode 0x600#12 = .stop ∧ decode 0x200#12 = .srcerr ∧ decode 0x3FE#12 = .srcerr ∧
  decode 0x1FE#12 = .byte 0xFE#8 ∧ decode 0x111#12 = .byte 0x11#8 ∧ decode 0x100#12 = .byte 0x00#8 ∧
  decode 0x0FE#12 = .idle ∧ decode 0x000#12 = .idle

/-! ### The step -/

/-- R11, R60, R126: a step samples the next command word and runs the operation it decodes to. The list of words the
host drives, and the free word where it holds none, are the model's (log entries 1 and 2). -/
def Obligations.StepRunsTheSampledWord : Prop :=
  (∀ (s : State) (w : Cmd) (ws : List Cmd), s.inputs = w :: ws → step s = exec (decode w) { s with inputs := ws }) ∧
  (∀ s : State, s.inputs = [] →
    step s = exec (decode (Config.hostCommand s.freeCmds)) { s with freeCmds := s.freeCmds + 1 })

/-- The model's own interface (log entry 1): the word the host drives next is the one the next step runs. -/
def Obligations.DrivenWordIsRun : Prop :=
  ∀ (s : State) (i : Instr),
    step (s.withFetchWord 12 (encode i).toNat) = exec i s ∧
    step (s.withFetchWord 16 (encode i).toNat) = exec i s

/-- R36, R61: an operation neither reads nor changes what the host will drive. -/
def Obligations.ExecLeavesHostInputs : Prop :=
  ∀ (i : Instr) (s t : State) (ws : List Cmd) (n : Nat), exec i s = .next t →
    t.inputs = s.inputs ∧ t.freeCmds = s.freeCmds ∧
    exec i { s with inputs := ws, freeCmds := n } = .next { t with inputs := ws, freeCmds := n }

/-- R126, R154: the machine's steps over the words the host placed are the run of those words. -/
def Obligations.StepsRunThePlacedWords : Prop :=
  ∀ (ws rest : List Cmd) (s : State),
    Host.Core.run core ws.length { s with inputs := ws ++ rest } = runCmds ws { s with inputs := rest }

/-! ### What each operation does -/

/-- R39, R127: RESET completes from every state, leaves every element at its reset value, and every byte of the buffer
reads 0x00 after it. -/
def Obligations.ResetSetsEveryElement : Prop :=
  ∀ s : State, ∃ t, exec .reset s = .next t ∧ (∀ a, a < 60 → Memory.read t.buf a = 0x00#8) ∧
    t = { win := [], buf := [], pktCnt := 0#6, fsm := 0b00#2, haltCause := 0#2, syncCount := 0#32,
          successCount := 0#32, oSync := false, oRecValid := false, oRec := 0#480, resetDone := true,
          inputs := s.inputs, freeCmds := s.freeCmds }

/-- R128: IDLE completes in every legal state and changes nothing but the strobes. -/
def Obligations.IdleClearsTheStrobesOnly : Prop :=
  ∀ s : State, Legal s → exec .idle s = .next { s with oSync := false, oRecValid := false }

/-- R140, R141: STOP completes in every running state: it halts with cause 1 and discards the packet in progress. -/
def Obligations.StopHaltsWithCauseOne : Prop :=
  ∀ s : State, Running s → exec .stop s = .next
    { s with fsm := 0b10#2, haltCause := 1#2, pktCnt := 0#6, oSync := false, oRecValid := false }

/-- R140, R142, R145: SRCERR completes in every running state: it halts with cause 2 and discards the packet in
progress. -/
def Obligations.SrcerrHaltsWithCauseTwo : Prop :=
  ∀ s : State, Running s → exec .srcerr s = .next
    { s with fsm := 0b10#2, haltCause := 2#2, pktCnt := 0#6, oSync := false, oRecValid := false }

/-- R139: in HALTED every word that does not assert `rst` clears the strobes and changes nothing else, and no byte is
consumed. -/
def Obligations.HaltedAbsorbsAllButReset : Prop :=
  ∀ (s : State) (w : Cmd), Legal s → s.fsm = Fsm.halted → cmdRst w = false →
    exec (decode w) s = .next { s with oSync := false, oRecValid := false } ∧
    inReady s w = false ∧ consumes s w = false

/-- R83, R129: a byte that completes a marker, in SEEKING_SYNC or COLLECTING, starts a fresh packet. -/
def Obligations.BoundaryByteStartsAPacket : Prop :=
  ∀ (s : State) (d : Byte), Running s → isBoundary s d = true →
    exec (.byte d) s = .next
      { s with win := [], syncCount := s.syncCount + 1#32, pktCnt := 0#6, fsm := 0b01#2, oSync := true,
               oRecValid := false }

/-- R82, R83, R130: a byte that completes no marker in SEEKING_SYNC changes the window and the strobes only. -/
def Obligations.SeekingByteUpdatesTheWindowOnly : Prop :=
  ∀ (s : State) (d : Byte), Running s → s.fsm = Fsm.seekingSync → isBoundary s d = false →
    exec (.byte d) s = .next
      { s with win := (syncObserve s.win d).2, oSync := false, oRecValid := false }

/-- R91, R131, R134: a byte that completes neither a marker nor the packet in COLLECTING is stored at the next offset.
-/
def Obligations.CollectingByteIsStored : Prop :=
  ∀ (s : State) (d : Byte), Running s → s.fsm = Fsm.collecting → isBoundary s d = false → s.pktCnt.toNat < 59 →
    exec (.byte d) s = .next
      { s with win := (syncObserve s.win d).2, buf := Memory.write s.buf s.pktCnt.toNat d, pktCnt := s.pktCnt + 1#6,
               oSync := false, oRecValid := false }

/-- R91, R92, R115, R131: the 60th byte completes the packet; a valid one is handed off, another is dropped, and the
state is SEEKING_SYNC either way. -/
def Obligations.SixtiethByteDecodesAndValidates : Prop :=
  ∀ (s : State) (d : Byte), Running s → s.fsm = Fsm.collecting → isBoundary s d = false → s.pktCnt = 59#6 →
    exec (.byte d) s = .next
      { s with win := (syncObserve s.win d).2, buf := Memory.write s.buf 59 d, pktCnt := 0#6, fsm := 0b00#2,
               oSync := false, oRecValid := packetOk (packetWith s.buf d),
               oRec := if packetOk (packetWith s.buf d) then packRecord (packetWith s.buf d) else s.oRec,
               successCount := if packetOk (packetWith s.buf d) then s.successCount + 1#32 else s.successCount }

/-- R91, R92: the completed packet is the 59 stored bytes in offset order, then the completing byte: 60 bytes. -/
def Obligations.CompletedPacketIsTheStoredBytes : Prop :=
  ∀ (m : List Host.Cell) (d : Byte),
    (packetWith m d).length = 60 ∧ (packetWith m d)[59]? = some d ∧
    ∀ a, a < 59 → (packetWith m d)[a]? = some (Memory.read m a)

/-! ### Where an operation stops, and that nothing else does -/

/-- 10_state.md section 8 (rule R40), 93_implementation_defined.md: before the first RESET every other operation faults.
The flag `resetDone` that says so is the model's (log entry 3, DEDUCED), and so is that `beforeFirstReset` is the fault
named whatever `fsm`, `halt_cause`, `pkt_cnt` and the window hold (the order of the checks, log entry 4, DESIGN
CHOICE). -/
def Obligations.FaultsBeforeTheFirstReset : Prop :=
  ∀ (i : Instr) (s : State), i ≠ .reset → s.resetDone = false → exec i s = .fault .beforeFirstReset

/-- R23, R24, R30 (93_implementation_defined.md): a state that holds a value no rule writes faults on every operation
but RESET. The order of the checks, and the fault for a window no hardware can hold, are the model's (log entries 4 and
5). -/
def Obligations.FaultsOnValuesNoRuleWrites : Prop :=
  ∀ (i : Instr) (s : State), i ≠ .reset → s.resetDone = true →
    (s.fsm = 0b11#2 → exec i s = .fault .fsmUnused) ∧
    (s.fsm ≠ 0b11#2 → s.haltCause = 3#2 → exec i s = .fault .haltCauseUnused) ∧
    (s.fsm ≠ 0b11#2 → s.haltCause ≠ 3#2 → 60 ≤ s.pktCnt.toNat → exec i s = .fault .pktCntUnused) ∧
    (s.fsm ≠ 0b11#2 → s.haltCause ≠ 3#2 → s.pktCnt.toNat < 60 → 4 ≤ s.win.length →
      exec i s = .fault .windowOverlong)

/-- R103, R143: in a legal state every operation completes and leaves a legal state; so MalformedFrame never arises (the
spec's own inference, 41_packet_assembler.md). -/
def Obligations.LegalStatesNeverStop : Prop :=
  ∀ (i : Instr) (s : State), Legal s → ∃ t, exec i s = .next t ∧ Legal t

/-! ### Invariants -/

/-- R39: the state after reset meets the invariants of 10_state.md section 7, which are the spec's own inference. -/
def Obligations.ResetStateMeetsTheInvariants : Prop := Invariants State.reset

/-- Every step keeps the nine invariants of 10_state.md section 7 (the spec's own inference), the buffer's canonical
form (log entry 6) and the window's alphabet (R83). -/
def Obligations.StepKeepsTheInvariants : Prop :=
  ∀ s t : State, Invariants s → step s = .next t → Invariants t

/-- R40, R160: every run that starts with RESET, from any state at all, completes every step and ends with the
invariants of 10_state.md section 7 (the spec's own inference). -/
def Obligations.RunsFromResetNeverStop : Prop :=
  ∀ (s : State) (w : Cmd) (ws : List Cmd), cmdRst w = true → ∃ t, runCmds (w :: ws) s = .next t ∧ Invariants t

/-- From a state that meets the invariants of 10_state.md section 7 (the spec's own inference) the next step never
stops, whatever the host drives. -/
def Obligations.InvariantStatesAlwaysStep : Prop :=
  ∀ s : State, Invariants s → SafeStep s

/-! ### Rules about one element of the state, over all operations -/

/-- R125, R26: the transition table of `fsm`, and `pkt_cnt` with it. -/
def Obligations.TransitionTable : Prop :=
  ∀ (i : Instr) (s t : State), exec i s = .next t →
    (i = .reset → t.fsm = Fsm.seekingSync ∧ t.pktCnt = 0#6) ∧
    (i ≠ .reset → s.fsm = Fsm.halted → t.fsm = Fsm.halted ∧ t.pktCnt = s.pktCnt) ∧
    (s.fsm ≠ Fsm.halted →
      (i = .stop ∨ i = .srcerr → t.fsm = Fsm.halted ∧ t.pktCnt = 0#6) ∧
      (i = .idle → t.fsm = s.fsm ∧ t.pktCnt = s.pktCnt) ∧
      (∀ d, i = .byte d → isBoundary s d = true → t.fsm = Fsm.collecting ∧ t.pktCnt = 0#6) ∧
      (∀ d, i = .byte d → isBoundary s d = false → s.fsm = Fsm.seekingSync →
        t.fsm = Fsm.seekingSync ∧ t.pktCnt = s.pktCnt) ∧
      (∀ d, i = .byte d → isBoundary s d = false → s.fsm = Fsm.collecting → s.pktCnt ≠ 59#6 →
        t.fsm = Fsm.collecting ∧ t.pktCnt = s.pktCnt + 1#6) ∧
      (∀ d, i = .byte d → isBoundary s d = false → s.fsm = Fsm.collecting → s.pktCnt = 59#6 →
        t.fsm = Fsm.seekingSync ∧ t.pktCnt = 0#6))

/-- R28: `sync_count` counts boundaries modulo 2^32, nothing else changes it but reset, and `o_sync_count` shows it. -/
def Obligations.SyncCountCountsBoundaries : Prop :=
  ∀ (i : Instr) (s t : State), exec i s = .next t →
    t.syncCount = (if i = .reset then 0#32 else if seesBoundary i s then s.syncCount + 1#32 else s.syncCount) ∧
    oSyncCount t = t.syncCount

/-- R29: `success_count` counts validated packets modulo 2^32, nothing else changes it but reset, a failed checksum
leaves it, and `o_success_count` shows it. -/
def Obligations.SuccessCountCountsRecords : Prop :=
  ∀ (i : Instr) (s t : State), exec i s = .next t →
    t.successCount =
      (if i = .reset then 0#32 else if (emittedPacket i s).isSome then s.successCount + 1#32 else s.successCount) ∧
    oSuccessCount t = t.successCount

/-- R30: `halt_cause` is written only when HALTED is entered, with the code of the halting operation, and by reset;
`o_halt_cause` shows it. -/
def Obligations.HaltCauseIsWrittenOnEntryOnly : Prop :=
  ∀ (i : Instr) (s t : State), exec i s = .next t →
    t.haltCause =
      (if i = .reset then 0#2
       else if s.fsm = Fsm.halted then s.haltCause
       else if i = .stop then 1#2
       else if i = .srcerr then 2#2
       else s.haltCause) ∧
    oHaltCause t = t.haltCause

/-- R31, R32, R138: each strobe is 1 exactly after the step that sets it, and while `o_rec_valid` is 1, `o_rec` holds
the record of that step. -/
def Obligations.StrobesLastOneStep : Prop :=
  ∀ (i : Instr) (s t : State), exec i s = .next t →
    t.oSync = seesBoundary i s ∧
    t.oRecValid = (emittedPacket i s).isSome ∧
    ∀ p, emittedPacket i s = some p → t.oRec = packRecord p

/-- R33: `o_rec` holds the most recent validated record, byte `i` at bits `8i+7:8i` and so every field as a slice, until
the next one or reset. -/
def Obligations.RecordRegisterHoldsTheLatestRecord : Prop :=
  (∀ (i : Instr) (s t : State), exec i s = .next t →
    t.oRec = if i = .reset then 0#480 else ((emittedPacket i s).map packRecord).getD s.oRec) ∧
  (∀ (i : Instr) (s t : State) (p : List Byte), exec i s = .next t → emittedPacket i s = some p →
    p.length = 60 ∧ (∀ k, k < 60 → p[k]? = some (t.oRec.extractLsb' (8 * k) 8)) ∧ recordFields t.oRec = fieldsOf p)

/-- R80, R127: the window changes by `SyncObserve` of a consumed byte and by reset only; that only a match or reset
empties it is the spec's own inference (10_state.md section 7). -/
def Obligations.WindowChangesByObserveOrReset : Prop :=
  ∀ (i : Instr) (s t : State), exec i s = .next t →
    (i ≠ .reset → t.win = ((consumedByte i s).map fun d => (syncObserve s.win d).2).getD s.win) ∧
    (i = .reset → t.win = []) ∧
    (s.win ≠ [] → t.win = [] → i = .reset ∨ seesBoundary i s = true)

/-- R22, R45, R51, R93: the packet buffer's frame. A step writes the fed byte at the next offset and nothing else; a
step that feeds no byte writes no byte. -/
def Obligations.BufferFrame : Prop :=
  ∀ (i : Instr) (s t : State), i ≠ .reset → exec i s = .next t →
    (∀ a, fedOffset i s ≠ some a → Memory.read t.buf a = Memory.read s.buf a) ∧
    (∀ d a, i = .byte d → fedOffset i s = some a → Memory.read t.buf a = d)

/-- R34, R61: a byte is consumed exactly by a BYTE word of a block that is not halted; in every other step `in_data`
changes nothing. -/
def Obligations.ByteIsConsumedOnlyWhenReady : Prop :=
  (∀ (s : State) (w : Cmd), consumes s w = true ↔ decode w = .byte (cmdData w) ∧ s.fsm ≠ Fsm.halted) ∧
  (∀ (s : State) (w v : Cmd), consumes s w = false → w >>> 8 = v >>> 8 → exec (decode w) s = exec (decode v) s)

/-- R22, R45: bytes of the buffer at or above `pkt_cnt` are never read: two states that differ only there go on alike,
and the host never sees the difference. -/
def Obligations.StaleBufferBytesAreNeverRead : Prop :=
  ∀ (i : Instr) (s t : State) (m : List Host.Cell),
    (∀ a, a < s.pktCnt.toNat → Memory.read m a = Memory.read s.buf a) → exec i s = .next t →
    ∃ n, exec i { s with buf := m } = .next { t with buf := n } ∧
      (∀ a, a < t.pktCnt.toNat → Memory.read n a = Memory.read t.buf a) ∧
      outputsOf { t with buf := n } = outputsOf t

/-! ### The Sync Detector -/

/-- R82: a non-qualifying byte leaves the detector untouched. -/
def Obligations.NonQualifyingByteIsIgnored : Prop :=
  ∀ (w : List Byte) (d : Byte), d ∉ [0xEF#8, 0xFE#8, 0xFF#8] → syncObserve w d = (false, w)

/-- R48, R83: the window is read little-endian, the oldest byte in bits 7:0 and the newest in bits 31:24; that a full
window then hits exactly on EF FF EF FE is the spec's own inference (40_sync_detector.md section 1). -/
def Obligations.FullWindowHitsOnTheMarkerOnly : Prop :=
  ∀ w0 w1 w2 d : Byte,
    le32 w0 w1 w2 d = d ++ w2 ++ w1 ++ w0 ∧
    ((syncObserve [w0, w1, w2] d).1 = true ↔ w0 = 0xEF#8 ∧ w1 = 0xFF#8 ∧ w2 = 0xEF#8 ∧ d = 0xFE#8)

/-- R83: a match leaves the window empty, and a mismatch keeps the newest three qualifying bytes. -/
def Obligations.WindowAfterObserve : Prop :=
  ∀ (w : List Byte) (d : Byte), w.length ≤ 3 → qualifying d = true →
    (w.length < 3 → syncObserve w d = (false, w ++ [d])) ∧
    (w.length = 3 → w ++ [d] = Config.markerBytes → syncObserve w d = (true, [])) ∧
    (w.length = 3 → w ++ [d] ≠ Config.markerBytes → syncObserve w d = (false, w.drop 1 ++ [d]))

/-- R83: a window of fewer than 4 bytes never hits; that after reset and after every match the first three qualifying
bytes do not hit is the spec's own inference (40_sync_detector.md section 1). -/
def Obligations.NoHitBeforeFourQualifyingBytes : Prop :=
  (∀ (w : List Byte) (d : Byte), w.length < 3 → (syncObserve w d).1 = false) ∧
  (∀ ds : List Byte, (ds.filter qualifying).length < 4 → ∀ h ∈ (syncObserveAll [] ds).1, h = false)

/-- The resync property (the spec's own inference, 40_sync_detector.md section 2): the marker has no border, so its four
bytes hit at the last of them and only there, whatever the window held before and whatever non-qualifying bytes lie
between. -/
def Obligations.MarkerIsFoundFromAnyWindow : Prop :=
  (∀ k, 0 < k → k < 4 → Config.markerBytes.take k ≠ Config.markerBytes.drop (4 - k)) ∧
  (∀ w g1 g2 g3 : List Byte, w.length ≤ 3 → (∀ b ∈ g1 ++ g2 ++ g3, qualifying b = false) →
    syncObserveAll w ([0xEF#8] ++ g1 ++ [0xFF#8] ++ g2 ++ [0xEF#8] ++ g3 ++ [0xFE#8]) =
      (List.replicate (g1.length + g2.length + g3.length + 3) false ++ [true], []))

/-- The non-interference property (the spec's own inference, 40_sync_detector.md section 2): deleting the non-qualifying
bytes of a stream changes neither the hits at the qualifying bytes nor the window, and a non-qualifying byte never hits.
-/
def Obligations.NonQualifyingBytesDropOut : Prop :=
  ∀ w ds : List Byte,
    (syncObserveAll w (ds.filter qualifying)).1 =
      ((ds.zip (syncObserveAll w ds).1).filter fun p => qualifying p.1).map Prod.snd ∧
    (syncObserveAll w (ds.filter qualifying)).2 = (syncObserveAll w ds).2 ∧
    ∀ p ∈ ds.zip (syncObserveAll w ds).1, qualifying p.1 = false → p.2 = false

/-- The stateless form of the detector (the spec's own inference, 40_sync_detector.md section 2): after reset it hits
exactly when the byte is qualifying and the last four qualifying bytes are the marker. -/
def Obligations.DetectorEqualsTheStatelessPredicate : Prop :=
  ∀ (ds : List Byte) (d : Byte),
    (syncObserve (syncObserveAll [] ds).2 d).1 = true ↔
      qualifying d = true ∧ Config.markerBytes <:+ (ds ++ [d]).filter qualifying

/-- R6, R81 (decision D5, the alphabet as a parameter): with any alphabet that contains the marker's bytes, the marker's
four bytes are found from every window. -/
def Obligations.MarkerIsFoundWithAnyAlphabet : Prop :=
  ∀ alphabet w : List Byte, (∀ b ∈ Config.markerBytes, b ∈ alphabet) → w.length ≤ 3 →
    let r1 := syncObserveWith alphabet Config.marker w 0xEF#8
    let r2 := syncObserveWith alphabet Config.marker r1.2 0xFF#8
    let r3 := syncObserveWith alphabet Config.marker r2.2 0xEF#8
    let r4 := syncObserveWith alphabet Config.marker r3.2 0xFE#8
    r1.1 = false ∧ r2.1 = false ∧ r3.1 = false ∧ r4 = (true, [])

/-! ### The Frame Decoder and the record bus -/

/-- R50, R68, R100, R101: fields are assembled little-endian, with no sign extension and no conversion. -/
def Obligations.FieldsAreLittleEndian : Prop :=
  (∀ (p : List Byte) (o : Nat) (b0 b1 : Byte), p[o]? = some b0 → p[o + 1]? = some b1 → memRead p o 2 = b1 ++ b0) ∧
  (∀ (p : List Byte) (o : Nat) (b0 b1 b2 b3 : Byte), p[o]? = some b0 → p[o + 1]? = some b1 → p[o + 2]? = some b2 →
    p[o + 3]? = some b3 → memRead p o 4 = b3 ++ b2 ++ b1 ++ b0)

/-- R33, R99: the record bus holds packet byte `i` at bits `8i+7:8i`; that the decoded frame is its slices is the spec's
own inference (42_frame_decoder.md). -/
def Obligations.DecodedFrameIsTheRecordsSlices : Prop :=
  ∀ p : List Byte, p.length = 60 →
    decodeFrame p = .ok (recordFields (packRecord p)) ∧ recordBytes (packRecord p) = p

/-- R97, R99, R103: exactly the packets of 60 bytes decode; any other length is MalformedFrame. -/
def Obligations.OnlySixtyByteBuffersDecode : Prop :=
  ∀ p : List Byte,
    (p.length = 60 → decodeFrame p = .ok (fieldsOf p)) ∧
    (p.length ≠ 60 → decodeFrame p = .error (.malformedFrame p.length))

/-- R105, R110: the two `sync_echo` bytes take no part in validation. -/
def Obligations.SyncEchoIsNotChecked : Prop :=
  ∀ (b0 b1 c0 c1 : Byte) (rest : List Byte), packetOk (b0 :: b1 :: rest) = packetOk (c0 :: c1 :: rest)

/-! ### The Integrity Validator -/

/-- R110, R111: a packet is valid exactly when the CRC of its bytes 4 to 59 equals `{P[3], P[2]}`. -/
def Obligations.ValidateComparesThePayloadCrc : Prop :=
  ∀ (b0 b1 b2 b3 : Byte) (payload : List Byte), payload.length = 56 →
    (packetOk (b0 :: b1 :: b2 :: b3 :: payload) = true ↔ crc16 payload = b3 ++ b2)

/-- R108: the corner cases and the check value of CRC-16/Modbus, as the spec computed them from the rule. -/
def Obligations.CrcCornerCases : Prop :=
  crc16 [] = 0xFFFF#16 ∧ crc16 [0x00#8] = 0x40BF#16 ∧ crc16 [0xFF#8] = 0x00FF#16 ∧
  crc16 [0x31#8, 0x32#8, 0x33#8, 0x34#8, 0x35#8, 0x36#8, 0x37#8, 0x38#8, 0x39#8] = 0x4B37#16

/-- The table of 95_test_vectors.md section 9 is `T[i] = CrcByte(0, i)`, and the table-driven update is the bit-serial
one for every register and byte (43_crc_validator.md). The equality is the spec's own inference, from general knowledge.
-/
def Obligations.TableDrivenCrcAgrees : Prop :=
  (∀ b : Byte, crcTable[b.toNat]? = some (crcByte 0x0000#16 b)) ∧
  (∀ (c : Half) (b : Byte), crcByteByTable c b = crcByte c b) ∧
  (∀ bs : List Byte, crc16ByTable bs = crc16 bs)

/-- Flipping any one bit of a valid packet's bytes 2 to 59 makes it invalid (43_crc_validator.md). That it holds for
every packet is the spec's own inference, from general knowledge. -/
def Obligations.SingleBitErrorsAreDetected : Prop :=
  ∀ (p : List Byte) (i k : Nat) (b : Byte), p.length = 60 → packetOk p = true → 2 ≤ i → p[i]? = some b → k < 8 →
    packetOk (p.set i (b ^^^ (1#8 <<< k))) = false

/-! ### Runs -/

/-- R83, R129: the four marker bytes, in any running state, end in COLLECTING with an empty packet. That no earlier byte
of them is a boundary is the spec's own inference (40_sync_detector.md section 2). -/
def Obligations.MarkerBytesOpenAPacket : Prop :=
  ∀ s : State, Running s → ∃ t, runCmds (byteCmds Config.markerBytes) s = .next t ∧
    t.fsm = Fsm.collecting ∧ t.pktCnt = 0#6 ∧ t.win = [] ∧ t.oSync = true ∧ t.oRecValid = false ∧
    t.syncCount = s.syncCount + 1#32 ∧ syncsOf (byteCmds Config.markerBytes) s = 1

/-- R92, R94, R131 and their consequences (the spec's own inference, 45_operations.md section 2): from any running
state, the marker and then 60 bytes that complete no boundary give a packet that is exactly those 60 bytes, whatever was
collected before; it is output if and only if it validates. -/
def Obligations.FramedPacketIsReceivedWhole : Prop :=
  ∀ (s : State) (p : List Byte), Running s → p.length = 60 → (∀ h ∈ (syncObserveAll [] p).1, h = false) →
    ∃ t, runCmds (byteCmds (Config.markerBytes ++ p)) s = .next t ∧
      t.fsm = Fsm.seekingSync ∧ t.pktCnt = 0#6 ∧ t.win = (syncObserveAll [] p).2 ∧ t.oSync = false ∧
      t.syncCount = s.syncCount + 1#32 ∧ t.oRecValid = packetOk p ∧ (packetOk p = true → t.oRec = packRecord p)

/-- R67, R70, R98, R99: the packet a stimulus program builds has 60 bytes, validates, and decodes to the field values it
was given. -/
def Obligations.StimulusPacketDecodesToItsFields : Prop :=
  ∀ (se : Half) (f0 f1 f2 f3 f4 f5 : Word) (u0 u1 u2 u3 u4 u5 u6 u7 u8 u9 u10 u11 u12 u13 u14 u15 : Half),
    let f := [f0, f1, f2, f3, f4, f5]
    let u := [u0, u1, u2, u3, u4, u5, u6, u7, u8, u9, u10, u11, u12, u13, u14, u15]
    packetOk (goodPacketBytes se f u) = true ∧ (goodPacketBytes se f u).length = 60 ∧
    decodeFrame (goodPacketBytes se f u) = .ok
      { syncEcho := se, crc := crc16 (payloadBytes f u), rollTarget := f0, rollMeas := f1, pitchTarget := f2,
        pitchMeas := f3, yawTarget := f4, yawMeas := f5, v1Target := u0, v2Target := u1, v3Target := u2,
        v4Target := u3, v1Meas := u4, v2Meas := u5, v3Meas := u6, v4Meas := u7, rollIn := u8, pitchIn := u9,
        yawIn := u10, throttleIn := u11, engineSpeedLimit := u12, engineSpeedTarget := u13, engineSpeed := u14,
        throttlePosition := u15 }

/-- R128: any number of IDLE steps before a command leaves the run as it was, so the behaviour does not depend on the
timing of the bytes (the spec's own inference, 45_operations.md section 2). -/
def Obligations.IdleStepsDoNotMatter : Prop :=
  ∀ (idles ws : List Cmd) (w : Cmd) (s : State), Legal s → (∀ v ∈ idles, decode v = .idle) →
    runCmds (idles ++ w :: ws) s = runCmds (w :: ws) s

/-- R25, R139, R150: a run without RESET from HALTED changes nothing but the strobes, emits nothing and consumes
nothing. -/
def Obligations.NoRunWithoutResetLeavesHalted : Prop :=
  ∀ (ws : List Cmd) (s : State), Legal s → s.fsm = Fsm.halted → noReset ws → ws ≠ [] →
    runCmds ws s = .next { s with oSync := false, oRecValid := false } ∧
    recordsOf ws s = [] ∧ syncsOf ws s = 0 ∧ consumedOf ws s = 0

/-- R28, R29, and the observation of 44_record_output.md (the equality is the spec's own inference): over a run without
RESET, `success_count` grows by the number of records and `sync_count` by the number of boundaries, modulo 2^32. -/
def Obligations.CountersCountTheObservation : Prop :=
  ∀ (ws : List Cmd) (s t : State), noReset ws → runCmds ws s = .next t →
    t.successCount = s.successCount + BitVec.ofNat 32 (recordsOf ws s).length ∧
    t.syncCount = s.syncCount + BitVec.ofNat 32 (syncsOf ws s)

/-- The accounting of 44_record_output.md (the spec's own inference): over a run without RESET from SEEKING_SYNC, every
boundary starts one packet attempt, and each attempt is recorded, abandoned, mismatched, cut off by a halt or still open
at the end. -/
def Obligations.EveryPacketAttemptIsAccountedFor : Prop :=
  ∀ (ws : List Cmd) (s t : State), Invariants s → s.fsm = Fsm.seekingSync → noReset ws → runCmds ws s = .next t →
    syncsOf ws s =
      (recordsOf ws s).length + abandonedOf ws s + mismatchedOf ws s + (cutOffOf ws s + collectingNow t) ∧
    cutOffOf ws s + collectingNow t ≤ 1

/-- The distances of 70_reset_and_hazards.md sections 2 and 3 (the spec's own inference): from SEEKING_SYNC every record
takes at least 61 consumed bytes, and from an empty window the first takes at least 64. -/
def Obligations.RecordsAreAtLeastSixtyOneBytesApart : Prop :=
  ∀ (ws : List Cmd) (s : State), Invariants s → s.fsm = Fsm.seekingSync →
    61 * (recordsOf ws s).length ≤ consumedOf ws s ∧
    (s.win = [] → recordsOf ws s ≠ [] → 61 * (recordsOf ws s).length + 3 ≤ consumedOf ws s)

/-- R47, R80, R129: the detector sees exactly the consumed bytes, in order: over a run without RESET the final window is
what SyncObserve leaves of that stream, and the boundaries are its hits. -/
def Obligations.DetectorFollowsTheConsumedStream : Prop :=
  ∀ (ws : List Cmd) (s t : State), noReset ws → runCmds ws s = .next t →
    t.win = (syncObserveAll s.win (consumedBytes ws s)).2 ∧
    syncsOf ws s = (syncObserveAll s.win (consumedBytes ws s)).1.count true
end

