-- ==== Sys2Proof/Laws/Operands.lean ====
section
/-! SUPPORT. Little-endian assembly as numbers (rules R48, R50). -/

namespace Sys2Proof.Machine

/-- A concatenation as a number: the more significant part first (rule R8). -/
theorem toNat_append_eq {m n : Nat} (x : BitVec m) (y : BitVec n) :
    (x ++ y).toNat = x.toNat * 2 ^ n + y.toNat := by
  rw [BitVec.toNat_append, ← Nat.shiftLeft_add_eq_or_of_lt y.isLt, Nat.shiftLeft_eq]

/-- `LE32` as a number (rule R10). -/
theorem le32_toNat (a b c d : Byte) :
    (le32 a b c d).toNat = a.toNat + 256 * (b.toNat + 256 * (c.toNat + 256 * d.toNat)) := by
  have h : (le32 a b c d).toNat = (((d ++ c) ++ b) ++ a).toNat := rfl
  rw [h, toNat_append_eq, toNat_append_eq, toNat_append_eq]
  omega

/-- A little-endian value fits its bytes. -/
theorem leNat_lt (bs : List Byte) : leNat bs < 2 ^ (8 * bs.length) := by
  induction bs with
  | nil => simp [leNat]
  | cons b bs ih =>
    have hb := b.isLt
    have h2 : 2 ^ (8 * (b :: bs).length) = 256 * 2 ^ (8 * bs.length) := by
      rw [List.length_cons, Nat.mul_add, Nat.pow_add]
      norm_num
      ring
    rw [h2, leNat]
    omega

/-- `leNat` of two sequences one after the other. -/
theorem leNat_append (as bs : List Byte) : leNat (as ++ bs) = leNat as + 2 ^ (8 * as.length) * leNat bs := by
  induction as with
  | nil => simp [leNat]
  | cons a as ih =>
    have h2 : 2 ^ (8 * (a :: as).length) = 256 * 2 ^ (8 * as.length) := by
      rw [List.length_cons, Nat.mul_add, Nat.pow_add]
      norm_num
      ring
    rw [h2, List.cons_append, leNat, leNat, ih]
    ring

end Sys2Proof.Machine
end

