-- ==== Sys2Proof/Laws/Memory.lean ====
section
/-! SUPPORT. The packet buffer's laws: a read after a write, in any list of cells, and the canonical form, which every
write keeps and in which equal bytes are equal lists. -/

namespace Sys2Proof.Machine

@[simp] theorem Memory.read_nil (a : Nat) : Memory.read [] a = 0#8 := rfl

theorem Memory.read_eq_zero_of_forall_ne {m : List Host.Cell} {a : Nat} (h : ∀ c ∈ m, c.1 ≠ a) :
    Memory.read m a = 0#8 := by
  induction m with
  | nil => rfl
  | cons c m ih =>
    have hc : c.1 ≠ a := h c (by simp)
    simp only [Memory.read, hc, if_false]
    exact ih fun d hd => h d (by simp [hd])

theorem Memory.read_filter_ne (m : List Host.Cell) {a b : Nat} (h : b ≠ a) :
    Memory.read (m.filter fun c => c.1 ≠ a) b = Memory.read m b := by
  induction m with
  | nil => rfl
  | cons c m ih =>
    by_cases hc : c.1 = a
    · have hb : c.1 ≠ b := fun e => h (e.symm.trans hc)
      rw [List.filter_cons_of_neg (by simpa using hc), ih]
      simp [Memory.read, hb]
    · rw [List.filter_cons_of_pos (by simpa using hc)]
      by_cases hb : c.1 = b <;> simp only [Memory.read, hb, if_true, if_false]
      exact ih

theorem Memory.read_insert {m : List Host.Cell} {c : Host.Cell} (h : ∀ d ∈ m, d.1 ≠ c.1) (b : Nat) :
    Memory.read (Memory.insert c m) b = if c.1 = b then c.2 else Memory.read m b := by
  induction m with
  | nil => simp [Memory.insert, Memory.read]
  | cons d m ih =>
    have hm : ∀ e ∈ m, e.1 ≠ c.1 := fun e he => h e (by simp [he])
    have hd : d.1 ≠ c.1 := h d (by simp)
    by_cases hlt : c.1 < d.1
    · simp [Memory.insert, hlt, Memory.read]
    · simp only [Memory.insert, hlt, if_false, Memory.read, ih hm]
      by_cases hb : d.1 = b
      · have hcb : c.1 ≠ b := fun e => hd (hb.trans e.symm)
        simp [hb, hcb]
      · simp [hb]

theorem Memory.filter_ne_forall (m : List Host.Cell) (a : Nat) :
    ∀ c ∈ m.filter (fun c => c.1 ≠ a), c.1 ≠ a := by
  intro c hc
  simpa using (List.mem_filter.mp hc).2

/-- A read after a write: the written byte at its offset, the byte from before at every other. -/
theorem Memory.read_write (m : List Host.Cell) (a b : Nat) (v : Byte) :
    Memory.read (Memory.write m a v) b = if a = b then v else Memory.read m b := by
  have hne := Memory.filter_ne_forall m a
  unfold Memory.write
  by_cases hv : v = 0#8
  · by_cases hab : a = b
    · subst hab
      simpa [hv] using Memory.read_eq_zero_of_forall_ne hne
    · simpa [hv, hab] using Memory.read_filter_ne m (Ne.symm hab)
  · simp only [hv, if_false]
    rw [Memory.read_insert hne]
    by_cases hab : a = b
    · simp [hab]
    · simpa [hab] using Memory.read_filter_ne m (Ne.symm hab)

@[simp] theorem Memory.read_write_same (m : List Host.Cell) (a : Nat) (v : Byte) :
    Memory.read (Memory.write m a v) a = v := by
  simp [Memory.read_write]

theorem Memory.read_write_other (m : List Host.Cell) {a b : Nat} (v : Byte) (h : a ≠ b) :
    Memory.read (Memory.write m a v) b = Memory.read m b := by
  simp [Memory.read_write, h]

theorem Memory.mem_insert {c d : Host.Cell} {m : List Host.Cell} :
    d ∈ Memory.insert c m ↔ d = c ∨ d ∈ m := by
  induction m with
  | nil => simp [Memory.insert]
  | cons e m ih =>
    by_cases h : c.1 < e.1
    · simp [Memory.insert, h]
    · simp only [Memory.insert, h, if_false, List.mem_cons, ih]
      tauto

theorem Memory.pairwise_insert {c : Host.Cell} {m : List Host.Cell}
    (hm : m.Pairwise fun d e => d.1 < e.1) (hc : ∀ d ∈ m, d.1 ≠ c.1) :
    (Memory.insert c m).Pairwise fun d e => d.1 < e.1 := by
  induction m with
  | nil => simp [Memory.insert]
  | cons d m ih =>
    rw [List.pairwise_cons] at hm
    by_cases h : c.1 < d.1
    · simp only [Memory.insert, h, if_true, List.pairwise_cons]
      refine ⟨?_, hm⟩
      intro e he
      rcases List.mem_cons.mp he with rfl | he
      · exact h
      · exact h.trans (hm.1 e he)
    · have hdc : d.1 < c.1 := by
        have := hc d (by simp)
        omega
      simp only [Memory.insert, h, if_false, List.pairwise_cons]
      refine ⟨?_, ih hm.2 fun e he => hc e (by simp [he])⟩
      intro e he
      rcases Memory.mem_insert.mp he with rfl | he
      · exact hdc
      · exact hm.1 e he

/-- A write at an offset of the buffer keeps the canonical form. -/
theorem Memory.wf_write {m : List Host.Cell} {a : Nat} (v : Byte) (hm : Memory.wf m) (ha : a < Config.pktSize) :
    Memory.wf (Memory.write m a v) := by
  have hp : (m.filter fun c => c.1 ≠ a).Pairwise fun c d => c.1 < d.1 := hm.1.filter _
  have hall : ∀ c ∈ m.filter (fun c => c.1 ≠ a), c.1 < Config.pktSize ∧ c.2 ≠ 0#8 :=
    fun c hc => hm.2 c (List.mem_filter.mp hc).1
  unfold Memory.write
  by_cases hv : v = 0#8
  · simp only [hv, if_true]
    exact ⟨hp, hall⟩
  · simp only [hv, if_false]
    refine ⟨Memory.pairwise_insert hp (Memory.filter_ne_forall m a), ?_⟩
    intro c hc
    rcases Memory.mem_insert.mp hc with rfl | hc
    · exact ⟨ha, hv⟩
    · exact hall c hc

theorem Memory.wf_nil : Memory.wf [] := by
  simp [Memory.wf]

theorem Memory.read_of_lt_all {m : List Host.Cell} {a : Nat} (h : ∀ c ∈ m, a < c.1) : Memory.read m a = 0#8 :=
  Memory.read_eq_zero_of_forall_ne fun c hc => (h c hc).ne'

/-- In canonical form equal bytes are equal lists. -/
theorem Memory.eq_of_read_eq {m n : List Host.Cell} (hm : Memory.wf m) (hn : Memory.wf n)
    (h : ∀ a, Memory.read m a = Memory.read n a) : m = n := by
  induction m generalizing n with
  | nil =>
    cases n with
    | nil => rfl
    | cons d n =>
      have := h d.1
      simp only [Memory.read, if_true] at this
      exact absurd this.symm (hn.2 d (by simp)).2
  | cons c m ih =>
    have hc0 : c.2 ≠ 0#8 := (hm.2 c (by simp)).2
    have hm1 := List.pairwise_cons.mp hm.1
    cases n with
    | nil =>
      have := h c.1
      simp only [Memory.read, if_true] at this
      exact absurd this hc0
    | cons d n =>
      have hd0 : d.2 ≠ 0#8 := (hn.2 d (by simp)).2
      have hn1 := List.pairwise_cons.mp hn.1
      have hkey : c.1 = d.1 := by
        rcases Nat.lt_trichotomy c.1 d.1 with hlt | heq | hlt
        · have h1 := h c.1
          rw [Memory.read_of_lt_all (m := d :: n) (by
            intro e he
            rcases List.mem_cons.mp he with rfl | he
            · exact hlt
            · exact hlt.trans (hn1.1 e he))] at h1
          simp only [Memory.read, if_true] at h1
          exact absurd h1 hc0
        · exact heq
        · have h1 := h d.1
          rw [Memory.read_of_lt_all (m := c :: m) (by
            intro e he
            rcases List.mem_cons.mp he with rfl | he
            · exact hlt
            · exact hlt.trans (hm1.1 e he))] at h1
          simp only [Memory.read, if_true] at h1
          exact absurd h1.symm hd0
      have hval : c.2 = d.2 := by
        have h1 := h c.1
        simpa [Memory.read, hkey] using h1
      have hcd : c = d := Prod.ext hkey hval
      subst hcd
      have hrest : m = n := by
        refine ih ⟨hm1.2, fun e he => hm.2 e (by simp [he])⟩ ⟨hn1.2, fun e he => hn.2 e (by simp [he])⟩ ?_
        intro a
        by_cases hca : c.1 = a
        · subst hca
          rw [Memory.read_of_lt_all fun e he => hm1.1 e he, Memory.read_of_lt_all fun e he => hn1.1 e he]
        · have h1 := h a
          simpa [Memory.read, hca] using h1
      rw [hrest]

end Sys2Proof.Machine
end

