-- ==== Sys2Proof/Laws/State.lean ====
section
/-! SUPPORT. The codes of `fsm` and `halt_cause` are distinct; one lemma per field of State for each named update of the
machine, so that no proof unfolds a record update. -/

namespace Sys2Proof.Machine

@[simp] theorem Fsm.seekingSync_ne_collecting : Fsm.seekingSync ≠ Fsm.collecting := by decide
@[simp] theorem Fsm.seekingSync_ne_halted : Fsm.seekingSync ≠ Fsm.halted := by decide
@[simp] theorem Fsm.seekingSync_ne_unused : Fsm.seekingSync ≠ Fsm.unused := by decide
@[simp] theorem Fsm.collecting_ne_seekingSync : Fsm.collecting ≠ Fsm.seekingSync := by decide
@[simp] theorem Fsm.collecting_ne_halted : Fsm.collecting ≠ Fsm.halted := by decide
@[simp] theorem Fsm.collecting_ne_unused : Fsm.collecting ≠ Fsm.unused := by decide
@[simp] theorem Fsm.halted_ne_seekingSync : Fsm.halted ≠ Fsm.seekingSync := by decide
@[simp] theorem Fsm.halted_ne_collecting : Fsm.halted ≠ Fsm.collecting := by decide
@[simp] theorem Fsm.halted_ne_unused : Fsm.halted ≠ Fsm.unused := by decide
@[simp] theorem Fsm.unused_ne_seekingSync : Fsm.unused ≠ Fsm.seekingSync := by decide
@[simp] theorem Fsm.unused_ne_collecting : Fsm.unused ≠ Fsm.collecting := by decide
@[simp] theorem Fsm.unused_ne_halted : Fsm.unused ≠ Fsm.halted := by decide

@[simp] theorem HaltCause.none_ne_stopped : HaltCause.none ≠ HaltCause.stopped := by decide
@[simp] theorem HaltCause.none_ne_sourceUnavailable : HaltCause.none ≠ HaltCause.sourceUnavailable := by decide
@[simp] theorem HaltCause.none_ne_unused : HaltCause.none ≠ HaltCause.unused := by decide
@[simp] theorem HaltCause.stopped_ne_none : HaltCause.stopped ≠ HaltCause.none := by decide
@[simp] theorem HaltCause.stopped_ne_sourceUnavailable : HaltCause.stopped ≠ HaltCause.sourceUnavailable := by decide
@[simp] theorem HaltCause.stopped_ne_unused : HaltCause.stopped ≠ HaltCause.unused := by decide
@[simp] theorem HaltCause.sourceUnavailable_ne_none : HaltCause.sourceUnavailable ≠ HaltCause.none := by decide
@[simp] theorem HaltCause.sourceUnavailable_ne_stopped : HaltCause.sourceUnavailable ≠ HaltCause.stopped := by decide
@[simp] theorem HaltCause.sourceUnavailable_ne_unused : HaltCause.sourceUnavailable ≠ HaltCause.unused := by decide
@[simp] theorem HaltCause.unused_ne_none : HaltCause.unused ≠ HaltCause.none := by decide
@[simp] theorem HaltCause.unused_ne_stopped : HaltCause.unused ≠ HaltCause.stopped := by decide
@[simp] theorem HaltCause.unused_ne_sourceUnavailable : HaltCause.unused ≠ HaltCause.sourceUnavailable := by decide

@[simp] theorem clearStrobes_win (s : State) : (clearStrobes s).win = s.win := rfl
@[simp] theorem clearStrobes_buf (s : State) : (clearStrobes s).buf = s.buf := rfl
@[simp] theorem clearStrobes_pktCnt (s : State) : (clearStrobes s).pktCnt = s.pktCnt := rfl
@[simp] theorem clearStrobes_fsm (s : State) : (clearStrobes s).fsm = s.fsm := rfl
@[simp] theorem clearStrobes_haltCause (s : State) : (clearStrobes s).haltCause = s.haltCause := rfl
@[simp] theorem clearStrobes_syncCount (s : State) : (clearStrobes s).syncCount = s.syncCount := rfl
@[simp] theorem clearStrobes_successCount (s : State) : (clearStrobes s).successCount = s.successCount := rfl
@[simp] theorem clearStrobes_oSync (s : State) : (clearStrobes s).oSync = false := rfl
@[simp] theorem clearStrobes_oRecValid (s : State) : (clearStrobes s).oRecValid = false := rfl
@[simp] theorem clearStrobes_oRec (s : State) : (clearStrobes s).oRec = s.oRec := rfl
@[simp] theorem clearStrobes_resetDone (s : State) : (clearStrobes s).resetDone = s.resetDone := rfl
@[simp] theorem clearStrobes_inputs (s : State) : (clearStrobes s).inputs = s.inputs := rfl
@[simp] theorem clearStrobes_freeCmds (s : State) : (clearStrobes s).freeCmds = s.freeCmds := rfl

@[simp] theorem raiseSync_win (s : State) : (raiseSync s).win = s.win := rfl
@[simp] theorem raiseSync_buf (s : State) : (raiseSync s).buf = s.buf := rfl
@[simp] theorem raiseSync_pktCnt (s : State) : (raiseSync s).pktCnt = s.pktCnt := rfl
@[simp] theorem raiseSync_fsm (s : State) : (raiseSync s).fsm = s.fsm := rfl
@[simp] theorem raiseSync_haltCause (s : State) : (raiseSync s).haltCause = s.haltCause := rfl
@[simp] theorem raiseSync_syncCount (s : State) : (raiseSync s).syncCount = s.syncCount := rfl
@[simp] theorem raiseSync_successCount (s : State) : (raiseSync s).successCount = s.successCount := rfl
@[simp] theorem raiseSync_oSync (s : State) : (raiseSync s).oSync = true := rfl
@[simp] theorem raiseSync_oRecValid (s : State) : (raiseSync s).oRecValid = s.oRecValid := rfl
@[simp] theorem raiseSync_oRec (s : State) : (raiseSync s).oRec = s.oRec := rfl
@[simp] theorem raiseSync_resetDone (s : State) : (raiseSync s).resetDone = s.resetDone := rfl
@[simp] theorem raiseSync_inputs (s : State) : (raiseSync s).inputs = s.inputs := rfl
@[simp] theorem raiseSync_freeCmds (s : State) : (raiseSync s).freeCmds = s.freeCmds := rfl

@[simp] theorem raiseRecValid_win (s : State) : (raiseRecValid s).win = s.win := rfl
@[simp] theorem raiseRecValid_buf (s : State) : (raiseRecValid s).buf = s.buf := rfl
@[simp] theorem raiseRecValid_pktCnt (s : State) : (raiseRecValid s).pktCnt = s.pktCnt := rfl
@[simp] theorem raiseRecValid_fsm (s : State) : (raiseRecValid s).fsm = s.fsm := rfl
@[simp] theorem raiseRecValid_haltCause (s : State) : (raiseRecValid s).haltCause = s.haltCause := rfl
@[simp] theorem raiseRecValid_syncCount (s : State) : (raiseRecValid s).syncCount = s.syncCount := rfl
@[simp] theorem raiseRecValid_successCount (s : State) : (raiseRecValid s).successCount = s.successCount := rfl
@[simp] theorem raiseRecValid_oSync (s : State) : (raiseRecValid s).oSync = s.oSync := rfl
@[simp] theorem raiseRecValid_oRecValid (s : State) : (raiseRecValid s).oRecValid = true := rfl
@[simp] theorem raiseRecValid_oRec (s : State) : (raiseRecValid s).oRec = s.oRec := rfl
@[simp] theorem raiseRecValid_resetDone (s : State) : (raiseRecValid s).resetDone = s.resetDone := rfl
@[simp] theorem raiseRecValid_inputs (s : State) : (raiseRecValid s).inputs = s.inputs := rfl
@[simp] theorem raiseRecValid_freeCmds (s : State) : (raiseRecValid s).freeCmds = s.freeCmds := rfl

@[simp] theorem halt_win (c : BitVec 2) (s : State) : (halt c s).win = s.win := rfl
@[simp] theorem halt_buf (c : BitVec 2) (s : State) : (halt c s).buf = s.buf := rfl
@[simp] theorem halt_pktCnt (c : BitVec 2) (s : State) : (halt c s).pktCnt = 0#6 := rfl
@[simp] theorem halt_fsm (c : BitVec 2) (s : State) : (halt c s).fsm = Fsm.halted := rfl
@[simp] theorem halt_haltCause (c : BitVec 2) (s : State) : (halt c s).haltCause = c := rfl
@[simp] theorem halt_syncCount (c : BitVec 2) (s : State) : (halt c s).syncCount = s.syncCount := rfl
@[simp] theorem halt_successCount (c : BitVec 2) (s : State) : (halt c s).successCount = s.successCount := rfl
@[simp] theorem halt_oSync (c : BitVec 2) (s : State) : (halt c s).oSync = s.oSync := rfl
@[simp] theorem halt_oRecValid (c : BitVec 2) (s : State) : (halt c s).oRecValid = s.oRecValid := rfl
@[simp] theorem halt_oRec (c : BitVec 2) (s : State) : (halt c s).oRec = s.oRec := rfl
@[simp] theorem halt_resetDone (c : BitVec 2) (s : State) : (halt c s).resetDone = s.resetDone := rfl
@[simp] theorem halt_inputs (c : BitVec 2) (s : State) : (halt c s).inputs = s.inputs := rfl
@[simp] theorem halt_freeCmds (c : BitVec 2) (s : State) : (halt c s).freeCmds = s.freeCmds := rfl

@[simp] theorem resetAll_win (s : State) : (resetAll s).win = [] := rfl
@[simp] theorem resetAll_buf (s : State) : (resetAll s).buf = [] := rfl
@[simp] theorem resetAll_pktCnt (s : State) : (resetAll s).pktCnt = 0#6 := rfl
@[simp] theorem resetAll_fsm (s : State) : (resetAll s).fsm = Fsm.seekingSync := rfl
@[simp] theorem resetAll_haltCause (s : State) : (resetAll s).haltCause = HaltCause.none := rfl
@[simp] theorem resetAll_syncCount (s : State) : (resetAll s).syncCount = 0#32 := rfl
@[simp] theorem resetAll_successCount (s : State) : (resetAll s).successCount = 0#32 := rfl
@[simp] theorem resetAll_oSync (s : State) : (resetAll s).oSync = false := rfl
@[simp] theorem resetAll_oRecValid (s : State) : (resetAll s).oRecValid = false := rfl
@[simp] theorem resetAll_oRec (s : State) : (resetAll s).oRec = 0#480 := rfl
@[simp] theorem resetAll_resetDone (s : State) : (resetAll s).resetDone = true := rfl
@[simp] theorem resetAll_inputs (s : State) : (resetAll s).inputs = s.inputs := rfl
@[simp] theorem resetAll_freeCmds (s : State) : (resetAll s).freeCmds = s.freeCmds := rfl

@[simp] theorem observeByte_win (d : Byte) (s : State) : (observeByte d s).win = (syncObserve s.win d).2 := rfl
@[simp] theorem observeByte_buf (d : Byte) (s : State) : (observeByte d s).buf = s.buf := rfl
@[simp] theorem observeByte_pktCnt (d : Byte) (s : State) : (observeByte d s).pktCnt = s.pktCnt := rfl
@[simp] theorem observeByte_fsm (d : Byte) (s : State) : (observeByte d s).fsm = s.fsm := rfl
@[simp] theorem observeByte_haltCause (d : Byte) (s : State) : (observeByte d s).haltCause = s.haltCause := rfl
@[simp] theorem observeByte_syncCount (d : Byte) (s : State) : (observeByte d s).syncCount = s.syncCount := rfl
@[simp] theorem observeByte_successCount (d : Byte) (s : State) : (observeByte d s).successCount = s.successCount := rfl
@[simp] theorem observeByte_oSync (d : Byte) (s : State) : (observeByte d s).oSync = s.oSync := rfl
@[simp] theorem observeByte_oRecValid (d : Byte) (s : State) : (observeByte d s).oRecValid = s.oRecValid := rfl
@[simp] theorem observeByte_oRec (d : Byte) (s : State) : (observeByte d s).oRec = s.oRec := rfl
@[simp] theorem observeByte_resetDone (d : Byte) (s : State) : (observeByte d s).resetDone = s.resetDone := rfl
@[simp] theorem observeByte_inputs (d : Byte) (s : State) : (observeByte d s).inputs = s.inputs := rfl
@[simp] theorem observeByte_freeCmds (d : Byte) (s : State) : (observeByte d s).freeCmds = s.freeCmds := rfl

@[simp] theorem asmReset_win (s : State) : (asmReset s).win = s.win := rfl
@[simp] theorem asmReset_buf (s : State) : (asmReset s).buf = s.buf := rfl
@[simp] theorem asmReset_pktCnt (s : State) : (asmReset s).pktCnt = 0#6 := rfl
@[simp] theorem asmReset_fsm (s : State) : (asmReset s).fsm = s.fsm := rfl
@[simp] theorem asmReset_haltCause (s : State) : (asmReset s).haltCause = s.haltCause := rfl
@[simp] theorem asmReset_syncCount (s : State) : (asmReset s).syncCount = s.syncCount := rfl
@[simp] theorem asmReset_successCount (s : State) : (asmReset s).successCount = s.successCount := rfl
@[simp] theorem asmReset_oSync (s : State) : (asmReset s).oSync = s.oSync := rfl
@[simp] theorem asmReset_oRecValid (s : State) : (asmReset s).oRecValid = s.oRecValid := rfl
@[simp] theorem asmReset_oRec (s : State) : (asmReset s).oRec = s.oRec := rfl
@[simp] theorem asmReset_resetDone (s : State) : (asmReset s).resetDone = s.resetDone := rfl
@[simp] theorem asmReset_inputs (s : State) : (asmReset s).inputs = s.inputs := rfl
@[simp] theorem asmReset_freeCmds (s : State) : (asmReset s).freeCmds = s.freeCmds := rfl

@[simp] theorem takeBoundary_win (s : State) : (takeBoundary s).win = s.win := rfl
@[simp] theorem takeBoundary_buf (s : State) : (takeBoundary s).buf = s.buf := rfl
@[simp] theorem takeBoundary_pktCnt (s : State) : (takeBoundary s).pktCnt = 0#6 := rfl
@[simp] theorem takeBoundary_fsm (s : State) : (takeBoundary s).fsm = Fsm.collecting := rfl
@[simp] theorem takeBoundary_haltCause (s : State) : (takeBoundary s).haltCause = s.haltCause := rfl
@[simp] theorem takeBoundary_syncCount (s : State) : (takeBoundary s).syncCount = s.syncCount + 1#32 := rfl
@[simp] theorem takeBoundary_successCount (s : State) : (takeBoundary s).successCount = s.successCount := rfl
@[simp] theorem takeBoundary_oSync (s : State) : (takeBoundary s).oSync = true := rfl
@[simp] theorem takeBoundary_oRecValid (s : State) : (takeBoundary s).oRecValid = s.oRecValid := rfl
@[simp] theorem takeBoundary_oRec (s : State) : (takeBoundary s).oRec = s.oRec := rfl
@[simp] theorem takeBoundary_resetDone (s : State) : (takeBoundary s).resetDone = s.resetDone := rfl
@[simp] theorem takeBoundary_inputs (s : State) : (takeBoundary s).inputs = s.inputs := rfl
@[simp] theorem takeBoundary_freeCmds (s : State) : (takeBoundary s).freeCmds = s.freeCmds := rfl

@[simp] theorem emitRecord_win (p : List Byte) (s : State) : (emitRecord p s).win = s.win := rfl
@[simp] theorem emitRecord_buf (p : List Byte) (s : State) : (emitRecord p s).buf = s.buf := rfl
@[simp] theorem emitRecord_pktCnt (p : List Byte) (s : State) : (emitRecord p s).pktCnt = s.pktCnt := rfl
@[simp] theorem emitRecord_fsm (p : List Byte) (s : State) : (emitRecord p s).fsm = s.fsm := rfl
@[simp] theorem emitRecord_haltCause (p : List Byte) (s : State) : (emitRecord p s).haltCause = s.haltCause := rfl
@[simp] theorem emitRecord_syncCount (p : List Byte) (s : State) : (emitRecord p s).syncCount = s.syncCount := rfl
@[simp] theorem emitRecord_successCount (p : List Byte) (s : State) : (emitRecord p s).successCount = s.successCount + 1#32 := rfl
@[simp] theorem emitRecord_oSync (p : List Byte) (s : State) : (emitRecord p s).oSync = s.oSync := rfl
@[simp] theorem emitRecord_oRecValid (p : List Byte) (s : State) : (emitRecord p s).oRecValid = true := rfl
@[simp] theorem emitRecord_oRec (p : List Byte) (s : State) : (emitRecord p s).oRec = packRecord p := rfl
@[simp] theorem emitRecord_resetDone (p : List Byte) (s : State) : (emitRecord p s).resetDone = s.resetDone := rfl
@[simp] theorem emitRecord_inputs (p : List Byte) (s : State) : (emitRecord p s).inputs = s.inputs := rfl
@[simp] theorem emitRecord_freeCmds (p : List Byte) (s : State) : (emitRecord p s).freeCmds = s.freeCmds := rfl
@[simp] theorem seekAgain_win (s : State) : (seekAgain s).win = s.win := rfl
@[simp] theorem seekAgain_buf (s : State) : (seekAgain s).buf = s.buf := rfl
@[simp] theorem seekAgain_pktCnt (s : State) : (seekAgain s).pktCnt = s.pktCnt := rfl
@[simp] theorem seekAgain_fsm (s : State) : (seekAgain s).fsm = Fsm.seekingSync := rfl
@[simp] theorem seekAgain_haltCause (s : State) : (seekAgain s).haltCause = s.haltCause := rfl
@[simp] theorem seekAgain_syncCount (s : State) : (seekAgain s).syncCount = s.syncCount := rfl
@[simp] theorem seekAgain_successCount (s : State) : (seekAgain s).successCount = s.successCount := rfl
@[simp] theorem seekAgain_oSync (s : State) : (seekAgain s).oSync = s.oSync := rfl
@[simp] theorem seekAgain_oRecValid (s : State) : (seekAgain s).oRecValid = s.oRecValid := rfl
@[simp] theorem seekAgain_oRec (s : State) : (seekAgain s).oRec = s.oRec := rfl
@[simp] theorem seekAgain_resetDone (s : State) : (seekAgain s).resetDone = s.resetDone := rfl
@[simp] theorem seekAgain_inputs (s : State) : (seekAgain s).inputs = s.inputs := rfl
@[simp] theorem seekAgain_freeCmds (s : State) : (seekAgain s).freeCmds = s.freeCmds := rfl

end Sys2Proof.Machine
end

