-- ==== Sys2Proof/Laws/Ops.lean ====
section
/-! SUPPORT. What each shared operation can do, said once. -/

namespace Sys2Proof.Machine

open Sys2Proof

/-- The states without a fault are the legal ones. -/
theorem stateFault_eq_none_iff (s : State) : stateFault s = none ↔ Legal s := by
  unfold stateFault
  constructor
  · intro h
    split at h
    · cases h
    split at h
    · cases h
    split at h
    · cases h
    split at h
    · cases h
    split at h
    · cases h
    rename_i h1 h2 h3 h4 h5
    exact ⟨by simpa using h1, h2, h3, by simpa [Config.pktSize] using h4, by
      simp only [Config.winLen] at h5
      omega⟩
  · intro h
    have h4 : ¬Config.pktSize ≤ s.pktCnt.toNat := by
      have := h.pktCnt
      simp only [Config.pktSize]
      omega
    have h5 : ¬Config.winLen ≤ s.win.length := by
      have := h.win
      simp only [Config.winLen]
      omega
    simp [h.resetDone, h.fsm, h.haltCause, h4, h5]

/-- In HALTED a step clears the strobes and does nothing more (rule R139). -/
theorem running_halted {s : State} (h : Legal s) (hh : s.fsm = Fsm.halted) (k : State → Result) :
    running s k = .next (clearStrobes s) := by
  simp [running, (stateFault_eq_none_iff s).mpr h, hh]

/-- Outside HALTED a step runs its operation with the strobes cleared (rule R126). -/
theorem running_not_halted {s : State} (h : Legal s) (hh : s.fsm ≠ Fsm.halted) (k : State → Result) :
    running s k = k (clearStrobes s) := by
  simp [running, (stateFault_eq_none_iff s).mpr h, hh]

/-- Everything a step that is not a RESET can do when it answers a next state. -/
theorem running_cases {s t : State} {k : State → Result} (h : running s k = .next t) :
    Legal s ∧ (s.fsm = Fsm.halted ∧ t = clearStrobes s ∨ s.fsm ≠ Fsm.halted ∧ k (clearStrobes s) = .next t) := by
  unfold running at h
  split at h
  · cases h
  · rename_i hs
    refine ⟨(stateFault_eq_none_iff s).mp hs, ?_⟩
    split at h
    · rename_i hh
      cases h
      exact .inl ⟨hh, rfl⟩
    · rename_i hh
      exact .inr ⟨hh, h⟩

/-- A state's fault is the fault of every operation but RESET. -/
theorem running_fault {s : State} {f : Fault} (h : stateFault s = some f) (k : State → Result) :
    running s k = .fault f := by
  simp [running, h]

/-- A buffer write at an existing offset. -/
theorem storeByte_ok {i : Nat} (v : Byte) (s : State) (h : i < Config.pktSize) :
    storeByte i v s = .ok { s with buf := Memory.write s.buf i v } := by
  simp [storeByte, h]

/-- A buffer write where no offset exists. -/
theorem storeByte_error {i : Nat} (v : Byte) (s : State) (h : ¬i < Config.pktSize) :
    storeByte i v s = .error (.noSuchOffset i) := by
  simp [storeByte, h]

theorem sampleCommand_cons {s : State} {w : Cmd} {ws : List Cmd} (h : s.inputs = w :: ws) :
    sampleCommand s = (w, { s with inputs := ws }) := by
  simp [sampleCommand, h]

theorem sampleCommand_nil {s : State} (h : s.inputs = []) :
    sampleCommand s = (Config.hostCommand s.freeCmds, { s with freeCmds := s.freeCmds + 1 }) := by
  simp [sampleCommand, h]

end Sys2Proof.Machine
end

