-- ==== Sys2Proof/Laws/SyncDetector.lean ====
section
/-! SUPPORT. What SyncObserve can do (rule R83). -/

namespace Sys2Proof.Machine

/-- Little-endian reading of four bytes determines them. -/
theorem le32_eq_iff (a b c d a' b' c' d' : Byte) :
    le32 a b c d = le32 a' b' c' d' ↔ a = a' ∧ b = b' ∧ c = c' ∧ d = d' := by
  constructor
  · intro h
    have hn := congrArg BitVec.toNat h
    rw [le32_toNat, le32_toNat] at hn
    have := a.isLt
    have := b.isLt
    have := c.isLt
    have := d.isLt
    have := a'.isLt
    have := b'.isLt
    have := c'.isLt
    have := d'.isLt
    refine ⟨BitVec.eq_of_toNat_eq ?_, BitVec.eq_of_toNat_eq ?_, BitVec.eq_of_toNat_eq ?_, BitVec.eq_of_toNat_eq ?_⟩ <;>
      omega
  · rintro ⟨rfl, rfl, rfl, rfl⟩
    rfl

/-- `MARKER` is its stream bytes read little-endian (rules R6, R49). -/
theorem marker_eq_le32 : Config.marker = le32 0xEF#8 0xFF#8 0xEF#8 0xFE#8 := by decide

theorem syncObserve_of_not_qualifying (w : List Byte) {d : Byte} (h : qualifying d = false) :
    syncObserve w d = (false, w) := by
  have : d ∉ Config.syncAlphabet := by simpa [qualifying] using h
  simp [syncObserve, syncObserveWith, this]

theorem syncObserve_short {w : List Byte} {d : Byte} (h : qualifying d = true) (hw : w.length < 3) :
    syncObserve w d = (false, w ++ [d]) := by
  have hd : d ∈ Config.syncAlphabet := by simpa [qualifying] using h
  match w, hw with
  | [], _ => simp [syncObserve, syncObserveWith, hd]
  | [_], _ => simp [syncObserve, syncObserveWith, hd]
  | [_, _], _ => simp [syncObserve, syncObserveWith, hd]

theorem syncObserve_full {w0 w1 w2 : Byte} {d : Byte} (h : qualifying d = true) :
    syncObserve [w0, w1, w2] d =
      if w0 = 0xEF#8 ∧ w1 = 0xFF#8 ∧ w2 = 0xEF#8 ∧ d = 0xFE#8 then (true, []) else (false, [w1, w2, d]) := by
  have hd : d ∈ Config.syncAlphabet := by simpa [qualifying] using h
  simp only [syncObserve, syncObserveWith, hd, if_true, marker_eq_le32, le32_eq_iff]

/-- The window after a byte holds at most 3 bytes when it did before (rule R21). -/
theorem syncObserve_length {w : List Byte} (d : Byte) (hw : w.length ≤ 3) : (syncObserve w d).2.length ≤ 3 := by
  cases hq : qualifying d with
  | false => simpa [syncObserve_of_not_qualifying w hq] using hw
  | true =>
    by_cases h3 : w.length < 3
    · rw [syncObserve_short hq h3]
      simp
      omega
    · obtain ⟨w0, w1, w2, rfl⟩ := List.length_eq_three.mp (by omega : w.length = 3)
      rw [syncObserve_full hq]
      split <;> simp

/-- Only qualifying bytes enter the window (rule R81). -/
theorem syncObserve_mem {w : List Byte} {d b : Byte} (hb : b ∈ (syncObserve w d).2) :
    b ∈ w ∨ b = d ∧ qualifying d = true := by
  cases hq : qualifying d with
  | false =>
    rw [syncObserve_of_not_qualifying w hq] at hb
    exact .inl hb
  | true =>
    have hd : d ∈ Config.syncAlphabet := by simpa [qualifying] using hq
    simp only [syncObserve, syncObserveWith, hd, if_true] at hb
    split at hb
    · split at hb
      · simp at hb
      · simp only [List.mem_cons, List.not_mem_nil, or_false] at hb
        rcases hb with rfl | rfl | rfl
        · simp
        · simp
        · exact .inr ⟨rfl, rfl⟩
    · rcases List.mem_append.mp hb with hb | hb
      · exact .inl hb
      · exact .inr ⟨by simpa using hb, rfl⟩

/-- A hit leaves the window empty (rule R83). -/
theorem syncObserve_hit_window {w : List Byte} {d : Byte} (h : (syncObserve w d).1 = true) :
    (syncObserve w d).2 = [] := by
  unfold syncObserve syncObserveWith at *
  split
  · rename_i hd
    simp only [hd, if_true] at h
    split <;> rename_i hw
    · simp only at h
      split <;> rename_i hv
      · rfl
      · simp [hv] at h
    · simp at h
  · rename_i hd
    simp [hd] at h

@[simp] theorem syncObserveAll_nil (w : List Byte) : syncObserveAll w [] = ([], w) := rfl

@[simp] theorem syncObserveAll_cons (w : List Byte) (d : Byte) (ds : List Byte) :
    syncObserveAll w (d :: ds) =
      ((syncObserve w d).1 :: (syncObserveAll (syncObserve w d).2 ds).1,
        (syncObserveAll (syncObserve w d).2 ds).2) := rfl

theorem syncObserveAll_append (w : List Byte) (ds es : List Byte) :
    syncObserveAll w (ds ++ es) =
      ((syncObserveAll w ds).1 ++ (syncObserveAll (syncObserveAll w ds).2 es).1,
        (syncObserveAll (syncObserveAll w ds).2 es).2) := by
  induction ds generalizing w with
  | nil => rfl
  | cons d ds ih => simp [ih]

end Sys2Proof.Machine
end

