-- ==== Sys2Proof/Laws/Datapath.lean ====
section
/-! SUPPORT. What the Packet Assembler, the Frame Decoder and the Integrity Validator can do. -/

namespace Sys2Proof.Machine

open Sys2Proof

/-- A packet is never another length (rule R96). -/
@[simp] theorem packetWith_length (m : List Host.Cell) (d : Byte) : (packetWith m d).length = Config.pktSize := by
  simp [packetWith, Config.pktSize]

/-- `AsmFeed` of a byte that does not complete the packet (rule R91). -/
theorem asmFeed_open {s : State} (d : Byte) (h : s.pktCnt.toNat < 59) :
    asmFeed d s =
      .ok ({ s with buf := Memory.write s.buf (feedOffset s) d, pktCnt := s.pktCnt + 1#6 }, none) := by
  have h1 : feedOffset s < Config.pktSize := by
    simp only [feedOffset, Config.pktSize]
    omega
  have h2 : ¬feedOffset s + 1 = Config.pktSize := by
    simp only [feedOffset, Config.pktSize]
    omega
  have h3 : BitVec.ofNat 6 (feedOffset s + 1) = s.pktCnt + 1#6 := by
    apply BitVec.eq_of_toNat_eq
    simp [feedOffset]
  simp only [asmFeed, storeByte_ok d s h1, h2, if_false, h3]

/-- `AsmFeed` of the byte that completes the packet (rules R91, R92). -/
theorem asmFeed_done {s : State} (d : Byte) (h : s.pktCnt = 59#6) :
    asmFeed d s =
      .ok ({ s with buf := Memory.write s.buf 59 d, pktCnt := 0#6 }, some (packetWith s.buf d)) := by
  have h0 : feedOffset s = 59 := by simp [feedOffset, h]
  simp [asmFeed, h0, storeByte, Config.pktSize, asmReset]

/-- Everything `AsmFeed` can do in a state whose counter is in range. -/
theorem asmFeed_cases {s : State} (d : Byte) (h : s.pktCnt.toNat < 60) :
    (s.pktCnt.toNat < 59 ∧
      asmFeed d s = .ok ({ s with buf := Memory.write s.buf (feedOffset s) d, pktCnt := s.pktCnt + 1#6 }, none)) ∨
    (s.pktCnt = 59#6 ∧
      asmFeed d s = .ok ({ s with buf := Memory.write s.buf 59 d, pktCnt := 0#6 }, some (packetWith s.buf d))) := by
  by_cases h1 : s.pktCnt.toNat < 59
  · exact .inl ⟨h1, asmFeed_open d h1⟩
  · have h2 : s.pktCnt = 59#6 := by
      apply BitVec.eq_of_toNat_eq
      simp only [BitVec.toNat_ofNat, Nat.reducePow, Nat.reduceMod]
      omega
    exact .inr ⟨h2, asmFeed_done d h2⟩

/-- `Decode` of a packet of 60 bytes (rule R99). -/
theorem decodeFrame_of_length {p : List Byte} (h : p.length = Config.pktSize) : decodeFrame p = .ok (fieldsOf p) := by
  simp [decodeFrame, h]

/-- DECODE_VALIDATE on a packet of 60 bytes never stops (rules R103, R131). -/
theorem decodeValidate_of_length {p : List Byte} (h : p.length = Config.pktSize) (s : State) :
    decodeValidate p s = .next (seekAgain (if packetOk p then emitRecord p s else s)) := by
  simp only [decodeValidate, decodeFrame_of_length h]
  rfl

/-- `crcByte` and the reset register, one byte at a time. -/
theorem crc16_eq_foldl (bs : List Byte) : crc16 bs = bs.foldl crcByte Config.crcInit := by
  simp [crc16, Config.crcXorOut]

end Sys2Proof.Machine
end

