-- ==== Sys2Proof/Laws/Control.lean ====
section
/-! SUPPORT. Inversion of the operations: everything a consumed byte, and then every operation, can do when it answers a
next state. Invariants and rules about one element are derived from these, not from the definitions. -/

namespace Sys2Proof.Machine

open Sys2Proof

/-- The state after a byte that completes the packet (rule R131), as one record. -/
def afterCompletion (d : Byte) (s : State) : State :=
  { s with win := (syncObserve s.win d).2, buf := Memory.write s.buf 59 d, pktCnt := 0#6, fsm := Fsm.seekingSync,
           oRecValid := s.oRecValid || packetOk (packetWith s.buf d),
           oRec := if packetOk (packetWith s.buf d) then packRecord (packetWith s.buf d) else s.oRec,
           successCount := if packetOk (packetWith s.buf d) then s.successCount + 1#32 else s.successCount }

theorem collectByte_open {s : State} (d : Byte) (h : s.pktCnt.toNat < 59) :
    collectByte d s =
      .next { s with buf := Memory.write s.buf (feedOffset s) d, pktCnt := s.pktCnt + 1#6 } := by
  simp [collectByte, asmFeed_open d h]

theorem collectByte_done {s : State} (d : Byte) (h : s.pktCnt = 59#6) :
    collectByte d (observeByte d s) = .next (afterCompletion d s) := by
  have h' : (observeByte d s).pktCnt = 59#6 := h
  simp only [collectByte, asmFeed_done d h', observeByte_buf]
  rw [decodeValidate_of_length (packetWith_length s.buf d)]
  cases hp : packetOk (packetWith s.buf d) <;>
    simp [afterCompletion, seekAgain, emitRecord, raiseRecValid, observeByte, hp]

/-- Everything a consumed byte can do, in a state whose counter is in range and which is not HALTED: the three rules
R129, R130 and R131, the last with its two cases. -/
theorem consumeByte_cases {s t : State} {d : Byte} (hc : s.pktCnt.toNat < 60) (h : consumeByte d s = .next t) :
    (isBoundary s d = true ∧ t = takeBoundary (observeByte d s)) ∨
    (isBoundary s d = false ∧ s.fsm = Fsm.seekingSync ∧ t = observeByte d s) ∨
    (isBoundary s d = false ∧ s.fsm ≠ Fsm.seekingSync ∧ s.pktCnt.toNat < 59 ∧
      t = { observeByte d s with buf := Memory.write s.buf (feedOffset s) d, pktCnt := s.pktCnt + 1#6 }) ∨
    (isBoundary s d = false ∧ s.fsm ≠ Fsm.seekingSync ∧ s.pktCnt = 59#6 ∧ t = afterCompletion d s) := by
  unfold consumeByte at h
  cases hb : isBoundary s d with
  | true =>
    simp only [hb, if_true, Host.Outcome.next.injEq] at h
    exact .inl ⟨rfl, h.symm⟩
  | false =>
    simp only [hb, Bool.false_eq_true, if_false] at h
    by_cases hf : s.fsm = Fsm.seekingSync
    · simp only [hf, if_true, Host.Outcome.next.injEq] at h
      exact .inr (.inl ⟨rfl, hf, h.symm⟩)
    · simp only [hf, if_false] at h
      by_cases h59 : s.pktCnt.toNat < 59
      · rw [collectByte_open (s := observeByte d s) d h59] at h
        simp only [Host.Outcome.next.injEq] at h
        exact .inr (.inr (.inl ⟨rfl, hf, h59, h.symm⟩))
      · have h59' : s.pktCnt = 59#6 := by
          apply BitVec.eq_of_toNat_eq
          simp only [BitVec.toNat_ofNat, Nat.reducePow, Nat.reduceMod]
          omega
        rw [collectByte_done d h59'] at h
        simp only [Host.Outcome.next.injEq] at h
        exact .inr (.inr (.inr ⟨rfl, hf, h59', h.symm⟩))

/-- A consumed byte never stops the machine in such a state. -/
theorem consumeByte_next {s : State} (d : Byte) (hc : s.pktCnt.toNat < 60) : ∃ t, consumeByte d s = .next t := by
  unfold consumeByte
  split
  · exact ⟨_, rfl⟩
  split
  · exact ⟨_, rfl⟩
  by_cases h59 : s.pktCnt.toNat < 59
  · exact ⟨_, collectByte_open (s := observeByte d s) d h59⟩
  · have h59' : s.pktCnt = 59#6 := by
      apply BitVec.eq_of_toNat_eq
      simp only [BitVec.toNat_ofNat, Nat.reducePow, Nat.reduceMod]
      omega
    exact ⟨_, collectByte_done d h59'⟩

theorem exec_reset (s : State) : exec .reset s = .next (resetAll s) := rfl

theorem exec_stop (s : State) : exec .stop s = running s fun t => .next (halt HaltCause.stopped t) := rfl

theorem exec_srcerr (s : State) :
    exec .srcerr s = running s fun t => .next (halt HaltCause.sourceUnavailable t) := rfl

theorem exec_byte (d : Byte) (s : State) : exec (.byte d) s = running s (consumeByte d) := rfl

theorem exec_idle (s : State) : exec .idle s = running s fun t => .next t := rfl

/-- Every operation but RESET is `running` of something: what `running` does in every case, each of them does. -/
theorem exec_eq_running {i : Instr} (hi : i ≠ .reset) : ∃ k, ∀ s, exec i s = running s k := by
  cases i with
  | reset => exact absurd rfl hi
  | stop => exact ⟨_, exec_stop⟩
  | srcerr => exact ⟨_, exec_srcerr⟩
  | byte d => exact ⟨_, exec_byte d⟩
  | idle => exact ⟨_, exec_idle⟩

theorem exec_halted {i : Instr} {s : State} (hi : i ≠ .reset) (h : Legal s) (hh : s.fsm = Fsm.halted) :
    exec i s = .next (clearStrobes s) := by
  obtain ⟨k, hk⟩ := exec_eq_running hi
  rw [hk, running_halted h hh]

theorem exec_fault {i : Instr} {s : State} {f : Fault} (hi : i ≠ .reset) (h : stateFault s = some f) :
    exec i s = .fault f := by
  obtain ⟨k, hk⟩ := exec_eq_running hi
  rw [hk, running_fault h]

/-- Everything a consumed byte can do in a running state, after the strobes are cleared (rules R129 to R131). -/
theorem consumeByte_running {s t : State} {d : Byte} (h : Running s) (ht : consumeByte d (clearStrobes s) = .next t) :
    (isBoundary s d = true ∧ t = takeBoundary (observeByte d (clearStrobes s))) ∨
    (isBoundary s d = false ∧ s.fsm = Fsm.seekingSync ∧ t = observeByte d (clearStrobes s)) ∨
    (isBoundary s d = false ∧ s.fsm = Fsm.collecting ∧ s.pktCnt.toNat < 59 ∧
      t = { observeByte d (clearStrobes s) with
              buf := Memory.write s.buf (feedOffset s) d, pktCnt := s.pktCnt + 1#6 }) ∨
    (isBoundary s d = false ∧ s.fsm = Fsm.collecting ∧ s.pktCnt = 59#6 ∧ t = afterCompletion d (clearStrobes s)) := by
  have hf : s.fsm ≠ Fsm.seekingSync → s.fsm = Fsm.collecting := by
    have h1 := h.legal.fsm
    have h2 := h.notHalted
    generalize s.fsm = f at h1 h2
    revert f
    decide
  rcases consumeByte_cases (s := clearStrobes s) h.legal.pktCnt ht with
    ⟨hb, ht⟩ | ⟨hb, hs, ht⟩ | ⟨hb, hs, hc, ht⟩ | ⟨hb, hs, hc, ht⟩
  · exact .inl ⟨hb, ht⟩
  · exact .inr (.inl ⟨hb, hs, ht⟩)
  · exact .inr (.inr (.inl ⟨hb, hf hs, hc, ht⟩))
  · exact .inr (.inr (.inr ⟨hb, hf hs, hc, ht⟩))

/-- Everything an operation can do when it answers a next state. -/
theorem exec_cases {i : Instr} {s t : State} (h : exec i s = .next t) :
    (i = .reset ∧ t = resetAll s) ∨
    (i ≠ .reset ∧ Legal s ∧ s.fsm = Fsm.halted ∧ t = clearStrobes s) ∨
    (Running s ∧ i = .stop ∧ t = halt HaltCause.stopped (clearStrobes s)) ∨
    (Running s ∧ i = .srcerr ∧ t = halt HaltCause.sourceUnavailable (clearStrobes s)) ∨
    (Running s ∧ i = .idle ∧ t = clearStrobes s) ∨
    (Running s ∧ ∃ d, i = .byte d ∧ consumeByte d (clearStrobes s) = .next t) := by
  by_cases hi : i = .reset
  · subst hi
    rw [exec_reset, Host.Outcome.next.injEq] at h
    exact .inl ⟨rfl, h.symm⟩
  obtain ⟨k, hk⟩ := exec_eq_running hi
  obtain ⟨hl, ⟨hh, ht⟩ | ⟨hh, -⟩⟩ := running_cases ((hk s).symm.trans h)
  · exact .inr (.inl ⟨hi, hl, hh, ht⟩)
  have hr : Running s := ⟨hl, hh⟩
  cases i with
  | reset => exact absurd rfl hi
  | stop =>
    rw [exec_stop, running_not_halted hl hh, Host.Outcome.next.injEq] at h
    exact .inr (.inr (.inl ⟨hr, rfl, h.symm⟩))
  | srcerr =>
    rw [exec_srcerr, running_not_halted hl hh, Host.Outcome.next.injEq] at h
    exact .inr (.inr (.inr (.inl ⟨hr, rfl, h.symm⟩)))
  | idle =>
    rw [exec_idle, running_not_halted hl hh, Host.Outcome.next.injEq] at h
    exact .inr (.inr (.inr (.inr (.inl ⟨hr, rfl, h.symm⟩))))
  | byte d =>
    rw [exec_byte, running_not_halted hl hh] at h
    exact .inr (.inr (.inr (.inr (.inr ⟨hr, d, rfl, h⟩))))

end Sys2Proof.Machine
end

