-- ==== Sys2Proof/Laws/PerInstr.lean ====
section
/-! SUPPORT. A statement made per instruction: the encoding of an operation is well formed and fits the row of the
operation table that has its name, with every ignored bit 0 (rules R62, R64, R69). -/

namespace Sys2Proof.Laws

/-- The operation's name in spec/opcode_table.json. -/
def rowName : Instr → String
  | .reset => "RESET"
  | .stop => "STOP"
  | .srcerr => "SRCERR"
  | .byte _ => "BYTE"
  | .idle => "IDLE"

/-- The encoding of `i` is covered by the row of its name and no other, and has no bit outside those the row reads. -/
def FitsItsRow.Statement (i : Instr) : Prop :=
  i.wellFormed = true ∧ (∀ r ∈ opRows, r.covers (encode i) = (r.mnemonic == rowName i)) ∧
    encode i &&& careBits i = encode i

theorem FitsItsRow.reset : FitsItsRow.Statement .reset := by
  refine ⟨rfl, ?_, ?_⟩ <;> decide

theorem FitsItsRow.stop : FitsItsRow.Statement .stop := by
  refine ⟨rfl, ?_, ?_⟩ <;> decide

theorem FitsItsRow.srcerr : FitsItsRow.Statement .srcerr := by
  refine ⟨rfl, ?_, ?_⟩ <;> decide

theorem FitsItsRow.byte (d : Byte) : FitsItsRow.Statement (.byte d) := by
  refine ⟨rfl, ?_, ?_⟩ <;> revert d <;> decide

theorem FitsItsRow.idle : FitsItsRow.Statement .idle := by
  refine ⟨rfl, ?_, ?_⟩ <;> decide

end Sys2Proof.Laws
end

