-- ==== Sys2Proof/Laws/Step.lean ====
section
/-! SUPPORT. One step, the host's run of several, and the model's run of command words. -/

namespace Sys2Proof.Machine

open Sys2Proof

/-- A step of a run that answers a next state. -/
theorem run_succ_next {M : Host.Core} {s t : M.State} (n : Nat) (h : M.step s = .next t) :
    M.run (n + 1) s = M.run n t := by
  simp only [Host.Core.run, h]

/-- A step of a run that faults. -/
theorem run_succ_fault {M : Host.Core} {s : M.State} {f : M.Fault} (n : Nat) (h : M.step s = .fault f) :
    M.run (n + 1) s = .fault f := by
  simp only [Host.Core.run, h]

theorem core_run_zero (s : State) : Host.Core.run core 0 s = .next s := rfl

theorem core_run_next {s t : State} (n : Nat) (h : step s = .next t) :
    Host.Core.run core (n + 1) s = Host.Core.run core n t :=
  run_succ_next (M := core) n h

theorem core_run_fault {s : State} {f : Fault} (n : Nat) (h : step s = .fault f) :
    Host.Core.run core (n + 1) s = .fault f :=
  run_succ_fault (M := core) n h

@[simp] theorem runCmds_nil (s : State) : runCmds [] s = .next s := rfl

theorem runCmds_next {w : Cmd} {s t : State} (ws : List Cmd) (h : exec (decode w) s = .next t) :
    runCmds (w :: ws) s = runCmds ws t := by
  simp only [runCmds, h]

theorem runCmds_fault {w : Cmd} {s : State} {f : Fault} (ws : List Cmd) (h : exec (decode w) s = .fault f) :
    runCmds (w :: ws) s = .fault f := by
  simp only [runCmds, h]

/-- The first step of a run that ends in a next state. -/
theorem runCmds_cons_next {w : Cmd} {ws : List Cmd} {s u : State} (h : runCmds (w :: ws) s = .next u) :
    ∃ t, exec (decode w) s = .next t ∧ runCmds ws t = .next u := by
  simp only [runCmds] at h
  split at h
  · exact ⟨_, by assumption, h⟩
  · cases h
  · cases h

theorem runCmds_append {ws vs : List Cmd} {s t : State} (h : runCmds ws s = .next t) :
    runCmds (ws ++ vs) s = runCmds vs t := by
  induction ws generalizing s with
  | nil =>
    cases h
    rfl
  | cons w ws ih =>
    obtain ⟨u, hu, hr⟩ := runCmds_cons_next h
    rw [List.cons_append, runCmds_next _ hu, ih hr]

@[simp] theorem stepsOf_nil (s : State) : stepsOf [] s = [] := rfl

theorem stepsOf_next {w : Cmd} {s t : State} (ws : List Cmd) (h : exec (decode w) s = .next t) :
    stepsOf (w :: ws) s = (s, t) :: stepsOf ws t := by
  simp only [stepsOf, h]

theorem stepsOf_append {ws vs : List Cmd} {s t : State} (h : runCmds ws s = .next t) :
    stepsOf (ws ++ vs) s = stepsOf ws s ++ stepsOf vs t := by
  induction ws generalizing s with
  | nil =>
    cases h
    rfl
  | cons w ws ih =>
    obtain ⟨u, hu, hr⟩ := runCmds_cons_next h
    rw [List.cons_append, stepsOf_next _ hu, stepsOf_next _ hu, ih hr, List.cons_append]

@[simp] theorem consumedBytes_nil (s : State) : consumedBytes [] s = [] := rfl

theorem consumedBytes_next {w : Cmd} {s t : State} (ws : List Cmd) (h : exec (decode w) s = .next t) :
    consumedBytes (w :: ws) s = (if consumes s w then [cmdData w] else []) ++ consumedBytes ws t := by
  simp only [consumedBytes, h]

@[simp] theorem consumedOf_nil (s : State) : consumedOf [] s = 0 := rfl

theorem consumedOf_next {w : Cmd} {s t : State} (ws : List Cmd) (h : exec (decode w) s = .next t) :
    consumedOf (w :: ws) s = (if consumes s w then 1 else 0) + consumedOf ws t := by
  unfold consumedOf
  rw [consumedBytes_next ws h, List.length_append]
  split <;> rfl

end Sys2Proof.Machine
end

