-- ==== Sys2Proof/Tests/Slice0.lean ====
section
/-! SUPPORT. Tests: words and results taken from the spec's encodings and worked examples (95_test_vectors.md), and for
every statement with hypotheses a state and operands that meet them. -/

namespace Sys2Proof.Tests

open Sys2Proof Sys2Proof.Machine

/-! ### Well-formedness: an ill-formed term for each check -/

theorem test_wf_word_of_13_bits_refused : isCommandWord 4096 = false := by decide

theorem test_wf_largest_word_accepted : isCommandWord 4095 = true := by decide

theorem test_wf_five_floats_refused :
    Stim.wellFormed (.packet 7#16 (List.replicate 5 0#32) (List.replicate 16 42#16)) = false := by decide

theorem test_wf_fifteen_uint16_refused :
    Stim.wellFormed (.badpacket 7#16 0#16 (List.replicate 6 0#32) (List.replicate 15 42#16)) = false := by decide

theorem test_wf_seven_floats_refused :
    Stim.wellFormed (.frame 7#16 (List.replicate 7 0#32) (List.replicate 16 42#16)) = false := by decide

theorem test_wf_full_packet_accepted :
    Stim.wellFormed (.packet 7#16 (List.replicate 6 0#32) (List.replicate 16 42#16)) = true := by decide

/-! ### Decoding: words written out bit by bit from 30_encoding.md rule R62 -/

theorem test_decode_reset : decode 0b100000000000#12 = .reset := by decide

/-- OP4: RESET wins over STOP. -/
theorem test_decode_reset_over_stop : decode 0b110000000000#12 = .reset := by decide

/-- OP2: STOP with an offered byte. -/
theorem test_decode_stop : decode 0b010111101111#12 = .stop := by decide

/-- OP3: STOP wins over SRCERR. -/
theorem test_decode_stop_over_srcerr : decode 0b011000000000#12 = .stop := by decide

/-- OP5: SRCERR with an offered byte. -/
theorem test_decode_srcerr : decode 0b001111111110#12 = .srcerr := by decide

/-- OP9. -/
theorem test_decode_byte : decode 0b000111111110#12 = .byte 0xFE#8 := by decide

/-- OP6: no byte is offered. -/
theorem test_decode_idle : decode 0b000011111110#12 = .idle := by decide

theorem test_encode_byte : encode (.byte 0x2A#8) = 0x12A#12 := by decide

theorem test_decodeTableWord_byte : decodeTableWord 12 0x1FE = some (.byte 0xFE#8) := by decide

theorem test_decodeTableWord_refuses_13_bits : decodeTableWord 16 0x1800 = none := by decide

/-! ### The spec's packets -/

/-- `GOOD` of 95_test_vectors.md. -/
def good : List Byte :=
  [0x07#8, 0x00#8, 0x6C#8, 0xFC#8] ++
  (List.replicate 6 [0x00#8, 0x00#8, 0xC0#8, 0x3F#8]).flatten ++
  (List.replicate 16 [0x2A#8, 0x00#8]).flatten

/-- The ramp of vector FD1: `P[i] = i`. -/
def ramp : List Byte := (List.range 60).map (BitVec.ofNat 8)

/-- A buffer that holds the first bytes of a list. -/
def bufferOf (bs : List Byte) : List Host.Cell :=
  (bs.zipIdx).foldl (fun m p => Memory.write m p.2 p.1) []

/-- A state that collects a packet, `n` of `good`'s bytes stored. -/
def collectingGood (n : Nat) : State :=
  { State.reset with fsm := Fsm.collecting, pktCnt := BitVec.ofNat 6 n, buf := bufferOf (good.take n),
                     syncCount := 1#32 }

/-- A state one byte before a boundary. -/
def beforeBoundary : State := { State.reset with win := [0xEF#8, 0xFF#8, 0xEF#8] }

/-- A halted state. -/
def haltedState : State := { State.reset with fsm := Fsm.halted, haltCause := HaltCause.stopped, syncCount := 9#32 }

/-- The next state of an answer, if it is one. -/
def nextOf : Result → Option State
  | .next t => some t
  | .fault _ => none
  | .refused _ => none

/-! ### One step of each operation -/

/-- OP1. -/
theorem test_reset_from_halted : exec .reset haltedState = .next State.reset := by rfl

/-- R40: RESET is the only operation before the first reset. -/
theorem test_reset_at_power_on : exec .reset { haltedState with resetDone := false } = .next State.reset := by rfl

/-- OP2 and R141: the packet is discarded although one byte was missing. -/
theorem test_stop_discards_packet :
    exec .stop (collectingGood 59) =
      .next { collectingGood 59 with fsm := Fsm.halted, haltCause := 1#2, pktCnt := 0#6 } := by rfl

/-- OP8: the first cause is kept. -/
theorem test_stop_keeps_first_cause :
    exec .stop { haltedState with haltCause := 2#2 } = .next { haltedState with haltCause := 2#2 } := by rfl

/-- OP5: the window is kept and the offered byte is not consumed. -/
theorem test_srcerr_keeps_window :
    exec .srcerr { collectingGood 10 with win := [0xEF#8, 0xFF#8, 0xEF#8] } =
      .next { collectingGood 10 with win := [0xEF#8, 0xFF#8, 0xEF#8], fsm := Fsm.halted, haltCause := 2#2,
                                     pktCnt := 0#6 } := by rfl

/-- The worked example of R139. -/
theorem test_srcerr_when_halted : exec .srcerr haltedState = .next haltedState := by rfl

/-- OP9: the counter wraps at the boundary. -/
theorem test_byte_boundary_wraps :
    exec (.byte 0xFE#8) { beforeBoundary with syncCount := 0xFFFFFFFF#32 } =
      .next { State.reset with fsm := Fsm.collecting, oSync := true } := by rfl

/-- OP10: the 60th byte of `good` hands the record off, and the counter wraps. -/
theorem test_byte_completes_good :
    nextOf (exec (.byte 0x00#8) { collectingGood 59 with successCount := 0xFFFFFFFF#32 }) =
      some { collectingGood 59 with fsm := Fsm.seekingSync, pktCnt := 0#6, successCount := 0#32, oRecValid := true,
                                     oRec := packRecord good } := by
  decide +kernel

/-- OP6: no boundary without `in_valid`. -/
theorem test_idle_keeps_window : exec .idle beforeBoundary = .next beforeBoundary := by rfl

/-- The worked example of R128. -/
theorem test_idle_clears_strobe :
    exec .idle { collectingGood 12 with oSync := true } = .next (collectingGood 12) := by rfl

/-! ### The datapath units -/

/-- SD8: a qualifying FE breaks the run. -/
theorem test_detector_broken_run :
    syncObserveAll [] [0xEF#8, 0xFF#8, 0xFE#8, 0xEF#8, 0xFE#8] =
      ([false, false, false, false, false], [0xFE#8, 0xEF#8, 0xFE#8]) := by decide

/-- SD9: the marker after a carried-over window. -/
theorem test_detector_carry_over :
    syncObserveAll [0xFE#8, 0xEF#8, 0xFE#8] [0xFF#8, 0xEF#8, 0xFF#8, 0xEF#8, 0xFE#8] =
      ([false, false, false, false, true], []) := by decide

/-- SD4: the source's literal bytes (conflict C1). -/
theorem test_detector_literal_bytes :
    syncObserveAll [] [0xEF#8, 0xFE#8, 0xFF#8, 0xFE#8] =
      ([false, false, false, false], [0xFE#8, 0xFF#8, 0xFE#8]) := by decide

/-- FD1. -/
theorem test_decode_ramp :
    (fieldsOf ramp).syncEcho = 0x0100#16 ∧ (fieldsOf ramp).crc = 0x0302#16 ∧
    (fieldsOf ramp).yawMeas = 0x1B1A1918#32 ∧ (fieldsOf ramp).v1Target = 0x1D1C#16 ∧
    (fieldsOf ramp).throttlePosition = 0x3B3A#16 := by decide +kernel

/-- FD4. -/
theorem test_record_slices :
    (packRecord good).extractLsb' 0 16 = 0x0007#16 ∧ (packRecord good).extractLsb' 16 16 = 0xFC6C#16 ∧
    (packRecord good).extractLsb' 32 32 = 0x3FC00000#32 ∧ (packRecord good).extractLsb' 464 16 = 0x002A#16 := by
  decide +kernel

/-- CRC3, its first and second bytes. -/
theorem test_crc_first_bytes : crcByte 0xFFFF#16 0x31#8 = 0x947E#16 ∧ crcByte 0x947E#16 0x32#8 = 0xF595#16 := by
  decide +kernel

/-- CRC9 and CV3: the ramp's checksum, by either form. -/
theorem test_crc_ramp : crc16 (ramp.drop 4) = 0xB367#16 ∧ crc16ByTable (ramp.drop 4) = 0xB367#16 := by decide +kernel

/-- CV1, CV2, CV7. -/
theorem test_validate :
    packetOk good = true ∧ packetOk ramp = false ∧ packetOk (good.set 2 0x6D#8) = false := by decide +kernel

/-- P1: the scenario's packet from its field values. -/
theorem test_stimulus_packet :
    goodPacketBytes 7#16 (List.replicate 6 0x3FC00000#32) (List.replicate 16 42#16) = good := by decide +kernel

/-- R45: offset 60 does not exist. -/
theorem test_store_beyond_the_buffer : storeByte 60 0x01#8 State.reset = .error (.noSuchOffset 60) := by rfl

/-- R103: a short buffer is malformed. -/
theorem test_decode_short_buffer : decodeFrame (good.take 59) = .error (.malformedFrame 59) := by rfl

/-! ### Witnesses: for each statement with hypotheses, a state and operands that meet all of them together -/

/-- An answer whose next state is `t`. -/
theorem eq_next_of_nextOf {r : Result} {t : State} (h : nextOf r = some t) : r = .next t := by
  cases r with
  | next u => exact congrArg _ (Option.some.inj h)
  | fault _ => exact nomatch h
  | refused _ => exact nomatch h

/-- The state after `good` is complete: a record. -/
def afterGood : State :=
  { collectingGood 59 with fsm := Fsm.seekingSync, pktCnt := 0#6, successCount := 1#32, oRecValid := true,
                           oRec := packRecord good }

/-- The state after the marker is complete: a boundary. -/
def afterBoundary : State := { State.reset with fsm := Fsm.collecting, syncCount := 1#32, oSync := true }

/-- The state `n` bytes into `good`, one byte before a boundary. -/
def collectingMarker (n : Nat) : State := { collectingGood n with win := [0xEF#8, 0xFF#8, 0xEF#8] }

theorem exec_completes_good : exec (.byte 0x00#8) (collectingGood 59) = .next afterGood :=
  eq_next_of_nextOf (by decide +kernel)

theorem exec_stores_offset_58 : exec (.byte 0x2A#8) (collectingGood 58) = .next (collectingGood 59) :=
  eq_next_of_nextOf (by decide +kernel)

theorem exec_boundary : exec (.byte 0xFE#8) beforeBoundary = .next afterBoundary := by rfl

theorem emits_good : emittedPacket (.byte 0x00#8) (collectingGood 59) = some good := by decide +kernel

theorem legal_reset : Legal State.reset := ⟨rfl, by decide, by decide, by decide, by decide⟩

theorem running_reset : Running State.reset := ⟨legal_reset, by decide⟩

theorem running_beforeBoundary : Running beforeBoundary :=
  ⟨⟨rfl, by decide, by decide, by decide, by decide⟩, by decide⟩

theorem running_collecting (n : Nat) (h : n < 60) : Running (collectingGood n) := by
  refine ⟨⟨rfl, by show Fsm.collecting ≠ Fsm.unused; decide, by show HaltCause.none ≠ HaltCause.unused; decide, ?_,
    by simp [collectingGood, State.reset]⟩, by show Fsm.collecting ≠ Fsm.halted; decide⟩
  simp only [collectingGood, BitVec.toNat_ofNat]
  omega

theorem running_collectingMarker : Running (collectingMarker 59) :=
  have h := (running_collecting 59 (by decide)).legal
  ⟨⟨h.resetDone, h.fsm, h.haltCause, h.pktCnt, by decide⟩, (running_collecting 59 (by decide)).notHalted⟩

theorem legal_halted : Legal haltedState := ⟨rfl, by decide, by decide, by decide, by decide⟩

theorem invariants_beforeBoundary : Invariants beforeBoundary := by constructor <;> decide

theorem noReset_of_all {ws : List Cmd} (h : ws.all (fun w => !cmdRst w) = true) : noReset ws := by
  intro w hw
  simpa using List.all_eq_true.1 h w hw

theorem witness_StepRunsTheSampledWord :
    (State.reset.withFetchWord 12 0x1EF).inputs = 0x1EF#12 :: [] ∧ State.reset.inputs = [] := by decide

theorem witness_ExecLeavesHostInputs : exec (.byte 0xFE#8) beforeBoundary = .next afterBoundary := exec_boundary

theorem witness_IdleClearsTheStrobesOnly : Legal (collectingGood 59) := (running_collecting 59 (by decide)).legal

theorem witness_StopHaltsWithCauseOne : Running (collectingGood 59) := running_collecting 59 (by decide)

theorem witness_SrcerrHaltsWithCauseTwo : Running State.reset := running_reset

/-- The greatest word that does not assert `rst`. -/
theorem witness_HaltedAbsorbsAllButReset :
    Legal haltedState ∧ haltedState.fsm = Fsm.halted ∧ cmdRst 0x7FF#12 = false := ⟨legal_halted, rfl, by decide⟩

/-- In SEEKING_SYNC, and in COLLECTING at the last offset. -/
theorem witness_BoundaryByteStartsAPacket :
    (Running beforeBoundary ∧ isBoundary beforeBoundary 0xFE#8 = true) ∧
    (Running (collectingMarker 59) ∧ isBoundary (collectingMarker 59) 0xFE#8 = true) :=
  ⟨⟨running_beforeBoundary, by decide⟩, running_collectingMarker, by rfl⟩

theorem witness_SeekingByteUpdatesTheWindowOnly :
    Running beforeBoundary ∧ beforeBoundary.fsm = Fsm.seekingSync ∧ isBoundary beforeBoundary 0xEF#8 = false :=
  ⟨running_beforeBoundary, rfl, by decide⟩

/-- The last byte but one. -/
theorem witness_CollectingByteIsStored :
    Running (collectingGood 58) ∧ (collectingGood 58).fsm = Fsm.collecting ∧
    isBoundary (collectingGood 58) 0x2A#8 = false ∧ (collectingGood 58).pktCnt.toNat < 59 :=
  ⟨running_collecting 58 (by decide), rfl, by rfl, by decide⟩

/-- A byte with which the packet validates, and one with which it does not. -/
theorem witness_SixtiethByteDecodesAndValidates :
    Running (collectingGood 59) ∧ (collectingGood 59).fsm = Fsm.collecting ∧ (collectingGood 59).pktCnt = 59#6 ∧
    (isBoundary (collectingGood 59) 0x00#8 = false ∧ packetOk (packetWith (collectingGood 59).buf 0x00#8) = true) ∧
    (isBoundary (collectingGood 59) 0x01#8 = false ∧ packetOk (packetWith (collectingGood 59).buf 0x01#8) = false) :=
  ⟨running_collecting 59 (by decide), rfl, by rfl, by decide +kernel, by decide +kernel⟩

theorem witness_CompletedPacketIsTheStoredBytes : 0 < 59 ∧ 58 < 59 := by decide

theorem witness_FaultsBeforeTheFirstReset :
    Instr.stop ≠ .reset ∧ { State.reset with resetDone := false }.resetDone = false := by decide

/-- Each clause at the boundary of its range. -/
theorem witness_FaultsOnValuesNoRuleWrites :
    Instr.idle ≠ .reset ∧ State.reset.resetDone = true ∧
    { State.reset with fsm := 0b11#2 }.fsm = 0b11#2 ∧
    (State.reset.fsm ≠ 0b11#2 ∧ { State.reset with haltCause := 3#2 }.haltCause = 3#2) ∧
    (State.reset.haltCause ≠ 3#2 ∧ 60 ≤ { State.reset with pktCnt := 60#6 }.pktCnt.toNat) ∧
    (State.reset.pktCnt.toNat < 60 ∧ 4 ≤ { State.reset with win := List.replicate 4 0xEF#8 }.win.length) := by
  decide

theorem witness_LegalStatesNeverStop : Legal (collectingGood 59) ∧ Legal haltedState :=
  ⟨(running_collecting 59 (by decide)).legal, legal_halted⟩

theorem witness_StepKeepsTheInvariants :
    Invariants { beforeBoundary with inputs := [0x1FE#12] } ∧
    step { beforeBoundary with inputs := [0x1FE#12] } = .next afterBoundary :=
  ⟨by constructor <;> decide, by rfl⟩

theorem witness_RunsFromResetNeverStop : cmdRst 0x800#12 = true ∧ cmdRst 0xFFF#12 = true := by decide

theorem witness_InvariantStatesAlwaysStep : Invariants beforeBoundary := invariants_beforeBoundary

/-- One line per row of the transition table, those of the byte counter at its boundary. -/
theorem witness_TransitionTable :
    exec .reset haltedState = .next State.reset ∧
    (exec .stop haltedState = .next haltedState ∧ Instr.stop ≠ .reset ∧ haltedState.fsm = Fsm.halted) ∧
    (exec .srcerr State.reset = .next { State.reset with fsm := Fsm.halted, haltCause := 2#2 } ∧
      State.reset.fsm ≠ Fsm.halted) ∧
    exec .idle State.reset = .next State.reset ∧
    (exec (.byte 0xFE#8) beforeBoundary = .next afterBoundary ∧ beforeBoundary.fsm ≠ Fsm.halted ∧
      isBoundary beforeBoundary 0xFE#8 = true) ∧
    (exec (.byte 0xEF#8) beforeBoundary = .next { beforeBoundary with win := [0xFF#8, 0xEF#8, 0xEF#8] } ∧
      isBoundary beforeBoundary 0xEF#8 = false ∧ beforeBoundary.fsm = Fsm.seekingSync) ∧
    (exec (.byte 0x2A#8) (collectingGood 58) = .next (collectingGood 59) ∧ (collectingGood 58).fsm ≠ Fsm.halted ∧
      isBoundary (collectingGood 58) 0x2A#8 = false ∧ (collectingGood 58).fsm = Fsm.collecting ∧
      (collectingGood 58).pktCnt ≠ 59#6) ∧
    (exec (.byte 0x00#8) (collectingGood 59) = .next afterGood ∧ (collectingGood 59).fsm ≠ Fsm.halted ∧
      isBoundary (collectingGood 59) 0x00#8 = false ∧ (collectingGood 59).fsm = Fsm.collecting ∧
      (collectingGood 59).pktCnt = 59#6) :=
  ⟨rfl, ⟨rfl, by decide, rfl⟩, ⟨rfl, by decide⟩, rfl, ⟨exec_boundary, by decide⟩, ⟨rfl, by decide⟩,
    ⟨exec_stores_offset_58, by decide⟩, ⟨exec_completes_good, by decide⟩⟩

theorem witness_SyncCountCountsBoundaries :
    exec (.byte 0xFE#8) beforeBoundary = .next afterBoundary ∧ seesBoundary (.byte 0xFE#8) beforeBoundary = true :=
  ⟨exec_boundary, by decide⟩

theorem witness_SuccessCountCountsRecords :
    exec (.byte 0x00#8) (collectingGood 59) = .next afterGood ∧
    emittedPacket (.byte 0x00#8) (collectingGood 59) = some good :=
  ⟨exec_completes_good, emits_good⟩

theorem witness_HaltCauseIsWrittenOnEntryOnly :
    exec .srcerr State.reset = .next { State.reset with fsm := Fsm.halted, haltCause := 2#2 } ∧
    exec .srcerr haltedState = .next haltedState := ⟨rfl, rfl⟩

theorem witness_StrobesLastOneStep :
    exec (.byte 0x00#8) (collectingGood 59) = .next afterGood ∧
    emittedPacket (.byte 0x00#8) (collectingGood 59) = some good :=
  ⟨exec_completes_good, emits_good⟩

theorem witness_RecordRegisterHoldsTheLatestRecord :
    exec (.byte 0x00#8) (collectingGood 59) = .next afterGood ∧
    emittedPacket (.byte 0x00#8) (collectingGood 59) = some good ∧ 59 < 60 :=
  ⟨exec_completes_good, emits_good, by decide⟩

/-- A byte, RESET, and a window that a step empties. -/
theorem witness_WindowChangesByObserveOrReset :
    (exec (.byte 0xFE#8) beforeBoundary = .next afterBoundary ∧ Instr.byte 0xFE#8 ≠ .reset ∧
      beforeBoundary.win ≠ [] ∧ afterBoundary.win = []) ∧
    exec .reset haltedState = .next State.reset :=
  ⟨⟨exec_boundary, by decide⟩, rfl⟩

/-- The last offset, and the one before it. -/
theorem witness_BufferFrame :
    Instr.byte 0x00#8 ≠ .reset ∧ exec (.byte 0x00#8) (collectingGood 59) = .next afterGood ∧
    fedOffset (.byte 0x00#8) (collectingGood 59) = some 59 ∧
    fedOffset (.byte 0x00#8) (collectingGood 59) ≠ some 58 :=
  ⟨by decide, exec_completes_good, by decide⟩

/-- A byte offered to a halted block, and another one in its place. -/
theorem witness_ByteIsConsumedOnlyWhenReady :
    consumes haltedState 0x1FE#12 = false ∧ (0x1FE#12) >>> 8 = (0x1EF#12) >>> 8 := by decide

/-- A buffer that differs at the counter's own offset. -/
theorem witness_StaleBufferBytesAreNeverRead :
    (∀ a, a < afterBoundary.pktCnt.toNat → Memory.read [(0, 0x55#8)] a = Memory.read afterBoundary.buf a) ∧
    exec .idle afterBoundary = .next { afterBoundary with oSync := false } := by
  refine ⟨fun a ha => ?_, rfl⟩
  have h0 : afterBoundary.pktCnt.toNat = 0 := by rfl
  omega

/-- The neighbours of the alphabet. -/
theorem witness_NonQualifyingByteIsIgnored :
    0xEE#8 ∉ [0xEF#8, 0xFE#8, 0xFF#8] ∧ 0xFD#8 ∉ [0xEF#8, 0xFE#8, 0xFF#8] := by decide

/-- Its three clauses. -/
theorem witness_WindowAfterObserve :
    qualifying 0xFE#8 = true ∧ [0xEF#8, 0xFF#8].length < 3 ∧
    ([0xEF#8, 0xFF#8, 0xEF#8].length = 3 ∧ [0xEF#8, 0xFF#8, 0xEF#8] ++ [0xFE#8] = Config.markerBytes) ∧
    ([0xEF#8, 0xFE#8, 0xFF#8].length = 3 ∧ [0xEF#8, 0xFE#8, 0xFF#8] ++ [0xFE#8] ≠ Config.markerBytes) := by decide

/-- Three qualifying bytes, another between, and the last of the hits. -/
theorem witness_NoHitBeforeFourQualifyingBytes :
    [0xEF#8, 0xFF#8].length < 3 ∧ ([0xEF#8, 0x00#8, 0xFF#8, 0xEF#8].filter qualifying).length < 4 ∧
    false ∈ (syncObserveAll [] [0xEF#8, 0x00#8, 0xFF#8, 0xEF#8]).1 := by decide

/-- A full window and two gaps. -/
theorem witness_MarkerIsFoundFromAnyWindow :
    (0 < 3 ∧ 3 < 4) ∧ [0xEF#8, 0xFF#8, 0xEF#8].length ≤ 3 ∧
    ∀ b ∈ [0x00#8] ++ [0x41#8] ++ [], qualifying b = false := by decide

theorem witness_NonQualifyingBytesDropOut :
    (0x00#8, false) ∈ [0xEF#8, 0x00#8].zip (syncObserveAll [] [0xEF#8, 0x00#8]).1 ∧ qualifying 0x00#8 = false := by
  decide

/-- A larger alphabet, a full window. -/
theorem witness_MarkerIsFoundWithAnyAlphabet :
    (∀ b ∈ Config.markerBytes, b ∈ [0x00#8, 0xEF#8, 0xFE#8, 0xFF#8]) ∧ [0x00#8, 0xEF#8, 0xFF#8].length ≤ 3 := by
  decide

/-- The last field of the ramp, and its last float32 field. -/
theorem witness_FieldsAreLittleEndian :
    (ramp[58]? = some 0x3A#8 ∧ ramp[58 + 1]? = some 0x3B#8) ∧
    (ramp[24]? = some 0x18#8 ∧ ramp[24 + 1]? = some 0x19#8 ∧ ramp[24 + 2]? = some 0x1A#8 ∧
      ramp[24 + 3]? = some 0x1B#8) := by decide

theorem witness_DecodedFrameIsTheRecordsSlices : good.length = 60 := by decide

/-- Both clauses, at the boundary. -/
theorem witness_OnlySixtyByteBuffersDecode : good.length = 60 ∧ (good.take 59).length ≠ 60 := by decide

theorem witness_ValidateComparesThePayloadCrc : (good.drop 4).length = 56 := by decide

/-- The first covered byte and its lowest bit, the last one and its highest. -/
theorem witness_SingleBitErrorsAreDetected :
    good.length = 60 ∧ packetOk good = true ∧ (2 ≤ 2 ∧ good[2]? = some 0x6C#8 ∧ 0 < 8) ∧
    (2 ≤ 59 ∧ good[59]? = some 0x00#8 ∧ 7 < 8) := by decide +kernel

theorem witness_MarkerBytesOpenAPacket : Running (collectingGood 59) := running_collecting 59 (by decide)

/-- No byte of `good` completes a boundary. -/
theorem witness_FramedPacketIsReceivedWhole :
    Running (collectingGood 59) ∧ good.length = 60 ∧ ∀ h ∈ (syncObserveAll [] good).1, h = false :=
  ⟨running_collecting 59 (by decide), by decide +kernel⟩

/-- Two IDLE words, one with ignored bits. -/
theorem witness_IdleStepsDoNotMatter :
    Legal haltedState ∧ ∀ v ∈ [0x000#12, 0x0FF#12], decode v = .idle := ⟨legal_halted, by decide⟩

theorem witness_NoRunWithoutResetLeavesHalted :
    Legal haltedState ∧ haltedState.fsm = Fsm.halted ∧ noReset [0x400#12, 0x1FE#12] ∧ [0x400#12, 0x1FE#12] ≠ [] :=
  ⟨legal_halted, rfl, noReset_of_all (by decide), by decide⟩

theorem witness_CountersCountTheObservation :
    noReset [0x1FE#12] ∧ runCmds [0x1FE#12] beforeBoundary = .next afterBoundary :=
  ⟨noReset_of_all (by decide), rfl⟩

theorem witness_EveryPacketAttemptIsAccountedFor :
    Invariants beforeBoundary ∧ beforeBoundary.fsm = Fsm.seekingSync ∧ noReset [0x1FE#12] ∧
    runCmds [0x1FE#12] beforeBoundary = .next afterBoundary :=
  ⟨invariants_beforeBoundary, rfl, noReset_of_all (by decide), rfl⟩

/-- Both clauses: from reset the framed `good` is a record after 64 bytes. -/
theorem witness_RecordsAreAtLeastSixtyOneBytesApart :
    Invariants State.reset ∧ State.reset.fsm = Fsm.seekingSync ∧ State.reset.win = [] ∧
    recordsOf (byteCmds (Config.markerBytes ++ good)) State.reset = [packRecord good] ∧
    consumedOf (byteCmds (Config.markerBytes ++ good)) State.reset = 64 :=
  ⟨by constructor <;> decide, rfl, rfl, by decide +kernel⟩

theorem witness_DetectorFollowsTheConsumedStream :
    noReset [0x1FE#12] ∧ runCmds [0x1FE#12] beforeBoundary = .next afterBoundary :=
  ⟨noReset_of_all (by decide), rfl⟩

end Sys2Proof.Tests
end

section
/-! SUPPORT. The record bus carries a packet: its byte and field slices are the packet's (rules R33, R102). -/

namespace Sys2Proof.Machine

open Sys2Proof

/-- Dropping the first `k` bytes divides the little-endian number. -/
theorem leNat_drop (p : List Byte) (k : Nat) : leNat (p.drop k) = leNat p / 2 ^ (8 * k) := by
  induction k generalizing p with
  | zero => simp
  | succ k ih =>
    cases p with
    | nil => simp [leNat]
    | cons b bs =>
      have hb : (b.toNat + 256 * leNat bs) / 256 = leNat bs := by
        have := b.isLt
        omega
      have hpow : 2 ^ (8 * (k + 1)) = 256 * 2 ^ (8 * k) := by ring
      rw [List.drop_succ_cons, ih, leNat, hpow, ← Nat.div_div_eq_div_mul, hb]

/-- Keeping the first `n` bytes takes the little-endian number modulo their range. -/
theorem leNat_take (p : List Byte) (n : Nat) : leNat (p.take n) = leNat p % 2 ^ (8 * n) := by
  induction n generalizing p with
  | zero => simp [leNat, Nat.mod_one]
  | succ n ih =>
    cases p with
    | nil => simp [leNat]
    | cons b bs =>
      have hmod : (b.toNat + 256 * leNat bs) % 256 = b.toNat := by
        have := b.isLt
        omega
      have hdiv : (b.toNat + 256 * leNat bs) / 256 = leNat bs := by
        have := b.isLt
        omega
      have hpow : 2 ^ (8 * (n + 1)) = 256 * 2 ^ (8 * n) := by ring
      rw [List.take_succ_cons, leNat, leNat, ih, hpow, Nat.mod_mul, hmod, hdiv]

/-- The slice `a + n - 1 : a` of a number held in `w` bits. -/
theorem extractLsb'_ofNat (x : Nat) {a n w : Nat} (h : a + n ≤ w) :
    (BitVec.ofNat w x).extractLsb' a n = BitVec.ofNat n (x / 2 ^ a) := by
  apply BitVec.eq_of_getLsbD_eq
  intro k hk
  have hw : a + k < w := by omega
  rw [BitVec.getLsbD_extractLsb', BitVec.getLsbD_ofNat, BitVec.getLsbD_ofNat, Nat.testBit_div_two_pow]
  simp [hk, hw, Nat.add_comm]

/-- `MemRead` as a number: the packet's little-endian value from the offset on, cut to its width (rule R50). -/
theorem memRead_eq_ofNat (p : List Byte) (i n : Nat) :
    memRead p i n = BitVec.ofNat (8 * n) (leNat p / 2 ^ (8 * i)) := by
  apply BitVec.eq_of_toNat_eq
  simp [memRead, leNat_take, leNat_drop]

/-- A slice of the record bus is the packet's bytes there, read little-endian (rules R99, R102). -/
theorem recordField_packRecord (p : List Byte) {offset size : Nat} (h : offset + size ≤ 60) :
    recordField (packRecord p) offset size = memRead p offset size := by
  rw [recordField, packRecord, extractLsb'_ofNat _ (by omega), memRead_eq_ofNat]

/-- One byte read from a packet (rule R50). -/
theorem memRead_one {p : List Byte} {k : Nat} (h : k < p.length) : memRead p k 1 = p[k] := by
  rw [memRead, List.drop_eq_getElem_cons h, List.take_succ_cons, List.take_zero, leNat, leNat]
  simp

/-- Byte `k` of the record is byte `k` of the packet (rule R33). -/
theorem recordByte_packRecord {p : List Byte} {k : Nat} (hp : p.length = 60) (hk : k < 60) :
    p[k]? = some (recordByte (packRecord p) k) := by
  have hlt : k < p.length := hp ▸ hk
  rw [List.getElem?_eq_getElem hlt, ← memRead_one hlt, ← recordField_packRecord p (by omega)]
  rfl

/-- The fields sliced out of the record are the fields decoded from the packet (rule R102). -/
theorem recordFields_packRecord (p : List Byte) : recordFields (packRecord p) = fieldsOf p := by
  simp [recordFields, fieldsOf, recordField_packRecord]

end Sys2Proof.Machine
end

section
/-! SUPPORT. The two events of a step, a boundary and an emitted packet, in each case of the inversion lemmas
(rules R12, R129 to R131). -/

namespace Sys2Proof.Machine

open Sys2Proof

theorem seesBoundary_halted (i : Instr) {s : State} (h : s.fsm = Fsm.halted) : seesBoundary i s = false := by
  cases i <;> simp [seesBoundary, h]

theorem seesBoundary_byte (d : Byte) {s : State} (h : s.fsm ≠ Fsm.halted) :
    seesBoundary (.byte d) s = isBoundary s d := by
  simp [seesBoundary, h]

theorem completedPacket_of_not_collecting (i : Instr) {s : State} (h : s.fsm ≠ Fsm.collecting) :
    completedPacket i s = none := by
  cases i <;> simp [completedPacket, h]

theorem completedPacket_byte_boundary {d : Byte} {s : State} (h : isBoundary s d = true) :
    completedPacket (.byte d) s = none := by
  simp [completedPacket, h]

theorem completedPacket_byte_open (d : Byte) {s : State} (h : s.pktCnt.toNat < 59) :
    completedPacket (.byte d) s = none := by
  have h59 : s.pktCnt ≠ 59#6 := fun e => by simp [e] at h
  simp [completedPacket, h59]

theorem completedPacket_byte_done {d : Byte} {s : State} (hf : s.fsm = Fsm.collecting) (hb : isBoundary s d = false)
    (hc : s.pktCnt = 59#6) : completedPacket (.byte d) s = some (packetWith s.buf d) := by
  simp [completedPacket, hf, hb, hc]

theorem emittedPacket_of_completedPacket_none {i : Instr} {s : State} (h : completedPacket i s = none) :
    emittedPacket i s = none := by
  simp [emittedPacket, h]

theorem emittedPacket_of_completedPacket_some {i : Instr} {s : State} {p : List Byte}
    (h : completedPacket i s = some p) : emittedPacket i s = if packetOk p then some p else none := by
  simp [emittedPacket, h, Option.filter]

/-- A completed packet has 60 bytes (rule R96). -/
theorem completedPacket_length {i : Instr} {s : State} {p : List Byte} (h : completedPacket i s = some p) :
    p.length = 60 := by
  cases i with
  | byte d =>
    simp only [completedPacket, Option.ite_none_right_eq_some, Option.some.injEq] at h
    obtain ⟨-, rfl⟩ := h
    exact packetWith_length s.buf d
  | reset => cases h
  | stop => cases h
  | srcerr => cases h
  | idle => cases h

/-- An emitted packet has 60 bytes. -/
theorem emittedPacket_length {i : Instr} {s : State} {p : List Byte} (h : emittedPacket i s = some p) :
    p.length = 60 :=
  completedPacket_length (Option.filter_eq_some_iff.mp h).1

end Sys2Proof.Machine
end

section
/-! SUPPORT. What a step does to the counters, the strobes and the record register, as a function of its two events. -/

namespace Sys2Proof.Machine

open Sys2Proof

/-- From `s` to `t`, the counters, the strobes and `o_rec` show exactly these events: whether a boundary was seen, and
which packet was emitted (rules R28, R29, R31 to R33). -/
structure ShowsEvents (boundary : Bool) (emitted : Option (List Byte)) (s t : State) : Prop where
  syncCount : t.syncCount = if boundary then s.syncCount + 1#32 else s.syncCount
  successCount : t.successCount = if emitted.isSome then s.successCount + 1#32 else s.successCount
  oSync : t.oSync = boundary
  oRecValid : t.oRecValid = emitted.isSome
  oRec : t.oRec = (emitted.map packRecord).getD s.oRec

theorem showsEvents_clearStrobes (s : State) : ShowsEvents false none s (clearStrobes s) :=
  ⟨rfl, rfl, rfl, rfl, rfl⟩

theorem showsEvents_halt (c : BitVec 2) (s : State) : ShowsEvents false none s (halt c (clearStrobes s)) :=
  ⟨rfl, rfl, rfl, rfl, rfl⟩

theorem showsEvents_takeBoundary (d : Byte) (s : State) :
    ShowsEvents true none s (takeBoundary (observeByte d (clearStrobes s))) :=
  ⟨rfl, rfl, rfl, rfl, rfl⟩

theorem showsEvents_afterCompletion (d : Byte) (s : State) :
    ShowsEvents false (if packetOk (packetWith s.buf d) then some (packetWith s.buf d) else none) s
      (afterCompletion d (clearStrobes s)) := by
  cases hp : packetOk (packetWith s.buf d) <;> constructor <;> simp [afterCompletion, hp]

/-- A consumed byte, by the rules R129, R130 and R131 (with its two cases). -/
theorem consumeByte_showsEvents {s t : State} {d : Byte} (h : Running s)
    (ht : consumeByte d (clearStrobes s) = .next t) :
    ShowsEvents (isBoundary s d) (emittedPacket (.byte d) s) s t := by
  rcases consumeByte_running h ht with ⟨hb, rfl⟩ | ⟨hb, hf, rfl⟩ | ⟨hb, hf, hc, rfl⟩ | ⟨hb, hf, hc, rfl⟩
  · rw [hb, emittedPacket_of_completedPacket_none (completedPacket_byte_boundary hb)]
    exact showsEvents_takeBoundary d s
  · have hn : s.fsm ≠ Fsm.collecting := by simp [hf]
    rw [hb, emittedPacket_of_completedPacket_none (completedPacket_of_not_collecting _ hn)]
    exact ⟨rfl, rfl, rfl, rfl, rfl⟩
  · rw [hb, emittedPacket_of_completedPacket_none (completedPacket_byte_open d hc)]
    exact ⟨rfl, rfl, rfl, rfl, rfl⟩
  · rw [hb, emittedPacket_of_completedPacket_some (completedPacket_byte_done hf hb hc)]
    exact showsEvents_afterCompletion d s

/-- Every step but RESET shows its own two events. -/
theorem exec_showsEvents {i : Instr} {s t : State} (hi : i ≠ .reset) (h : exec i s = .next t) :
    ShowsEvents (seesBoundary i s) (emittedPacket i s) s t := by
  rcases exec_cases h with
    ⟨hr, -⟩ | ⟨-, -, hh, rfl⟩ | ⟨-, rfl, rfl⟩ | ⟨-, rfl, rfl⟩ | ⟨-, rfl, rfl⟩ | ⟨hr, d, rfl, ht⟩
  · exact absurd hr hi
  · have hn : s.fsm ≠ Fsm.collecting := by simp [hh]
    rw [seesBoundary_halted i hh, emittedPacket_of_completedPacket_none (completedPacket_of_not_collecting i hn)]
    exact showsEvents_clearStrobes s
  · exact showsEvents_halt HaltCause.stopped s
  · exact showsEvents_halt HaltCause.sourceUnavailable s
  · exact showsEvents_clearStrobes s
  · rw [seesBoundary_byte d hr.notHalted]
    exact consumeByte_showsEvents hr ht

/-- RESET answers the reset state (rule R127). -/
theorem eq_resetAll_of_exec_reset {s t : State} (h : exec .reset s = .next t) : t = resetAll s :=
  (Host.Outcome.next.inj h).symm

/-- A consumed byte leaves `halt_cause` (rule R30). -/
theorem consumeByte_haltCause {s t : State} {d : Byte} (h : Running s)
    (ht : consumeByte d (clearStrobes s) = .next t) : t.haltCause = s.haltCause := by
  rcases consumeByte_running h ht with ⟨-, rfl⟩ | ⟨-, -, rfl⟩ | ⟨-, -, -, rfl⟩ | ⟨-, -, -, rfl⟩ <;> rfl

end Sys2Proof.Machine
end

section
/-! The statements of 10_state.md about the counters, `halt_cause`, the strobes and the record register. -/

open Sys2Proof Sys2Proof.Machine

/-- Settles O27: RESET clears `sync_count`, and every other step shows its boundary event in it. -/
theorem syncCountCountsBoundaries : Obligations.SyncCountCountsBoundaries := by
  intro i s t h
  refine ⟨?_, rfl⟩
  by_cases hi : i = .reset
  · subst hi
    rw [eq_resetAll_of_exec_reset h]
    rfl
  · rw [if_neg hi]
    exact (exec_showsEvents hi h).syncCount

/-- Settles O28: RESET clears `success_count`, and every other step shows its emitted packet in it. -/
theorem successCountCountsRecords : Obligations.SuccessCountCountsRecords := by
  intro i s t h
  refine ⟨?_, rfl⟩
  by_cases hi : i = .reset
  · subst hi
    rw [eq_resetAll_of_exec_reset h]
    rfl
  · rw [if_neg hi]
    exact (exec_showsEvents hi h).successCount

/-- Settles O29, by the cases of a step: RESET, HALTED, the two halting operations, and the two that leave
`halt_cause`. -/
theorem haltCauseIsWrittenOnEntryOnly : Obligations.HaltCauseIsWrittenOnEntryOnly := by
  intro i s t h
  refine ⟨?_, rfl⟩
  rcases exec_cases h with
    ⟨rfl, rfl⟩ | ⟨hi, -, hh, rfl⟩ | ⟨hr, rfl, rfl⟩ | ⟨hr, rfl, rfl⟩ | ⟨-, rfl, rfl⟩ | ⟨hr, d, rfl, ht⟩
  · rfl
  · simp [hi, hh]
  · simp [hr.notHalted]
  · simp [hr.notHalted]
  · simp
  · simp [consumeByte_haltCause hr ht]

/-- Settles O30: RESET clears both strobes, and every other step shows its own events in them. -/
theorem strobesLastOneStep : Obligations.StrobesLastOneStep := by
  intro i s t h
  by_cases hi : i = .reset
  · subst hi
    rw [eq_resetAll_of_exec_reset h]
    exact ⟨rfl, rfl, fun p hp => by cases hp⟩
  · have he := exec_showsEvents hi h
    refine ⟨he.oSync, he.oRecValid, fun p hp => ?_⟩
    rw [he.oRec, hp]
    rfl

/-- Settles O31: the register part is the step's own events; the slices are the packet's because an emitted packet has
60 bytes. -/
theorem recordRegisterHoldsTheLatestRecord : Obligations.RecordRegisterHoldsTheLatestRecord := by
  refine ⟨fun i s t h => ?_, fun i s t p h hp => ?_⟩
  · by_cases hi : i = .reset
    · subst hi
      rw [eq_resetAll_of_exec_reset h]
      rfl
    · rw [if_neg hi]
      exact (exec_showsEvents hi h).oRec
  · obtain ⟨-, -, hrec⟩ := strobesLastOneStep i s t h
    have hlen := emittedPacket_length hp
    rw [hrec p hp]
    exact ⟨hlen, fun k hk => recordByte_packRecord hlen hk, recordFields_packRecord p⟩

end

section
/-! The statement of 40_sync_detector.md about the bytes outside the alphabet. -/

open Sys2Proof Sys2Proof.Machine

/-- Settles O36: the three bytes of the statement are the alphabet (rule R81), so the byte is not qualifying. -/
theorem nonQualifyingByteIsIgnored : Obligations.NonQualifyingByteIsIgnored := by
  intro w d hd
  have hq : qualifying d = false := decide_eq_false hd
  exact syncObserve_of_not_qualifying w hq

end

section
/-! SUPPORT. `MemRead` one byte at a time (rules R50, R100, R101). -/

namespace Sys2Proof.Machine

open Sys2Proof

/-- No byte is cut off: `MemRead` is the little-endian value of the bytes it reads (rule R50). -/
theorem memRead_toNat (p : List Byte) (i n : Nat) : (memRead p i n).toNat = leNat ((p.drop i).take n) := by
  rw [memRead, BitVec.toNat_ofNat, leNat_take, Nat.mod_mod]

/-- The byte at the offset is the least significant one (rules R48, R50). -/
theorem memRead_succ_toNat {p : List Byte} {i : Nat} {b : Byte} (n : Nat) (h : p[i]? = some b) :
    (memRead p i (n + 1)).toNat = b.toNat + 256 * (memRead p (i + 1) n).toNat := by
  obtain ⟨hi, rfl⟩ := List.getElem?_eq_some_iff.mp h
  rw [memRead_toNat, memRead_toNat, List.drop_eq_getElem_cons hi, List.take_succ_cons, leNat]

theorem memRead_zero_toNat (p : List Byte) (i : Nat) : (memRead p i 0).toNat = 0 := by
  rw [memRead_toNat, List.take_zero, leNat]

/-- A uint16 field (rule R100). -/
theorem memRead_two {p : List Byte} {o : Nat} {b0 b1 : Byte} (h0 : p[o]? = some b0) (h1 : p[o + 1]? = some b1) :
    memRead p o 2 = b1 ++ b0 := by
  apply BitVec.eq_of_toNat_eq
  rw [memRead_succ_toNat 1 h0, memRead_succ_toNat 0 h1, memRead_zero_toNat, toNat_append_eq]
  omega

/-- A four-byte field is `LE32` of its bytes (rules R68, R101). -/
theorem memRead_four {p : List Byte} {o : Nat} {b0 b1 b2 b3 : Byte} (h0 : p[o]? = some b0)
    (h1 : p[o + 1]? = some b1) (h2 : p[o + 2]? = some b2) (h3 : p[o + 3]? = some b3) :
    memRead p o 4 = le32 b0 b1 b2 b3 := by
  apply BitVec.eq_of_toNat_eq
  rw [memRead_succ_toNat 3 h0, memRead_succ_toNat 2 h1, memRead_succ_toNat 1 h2, memRead_succ_toNat 0 h3,
    memRead_zero_toNat, le32_toNat]
  omega

end Sys2Proof.Machine
end

section
/-! The statement of 42_frame_decoder.md about the assembly of a field. -/

open Sys2Proof Sys2Proof.Machine

/-- Settles O44: two bytes are the uint16 assembly, and four are `LE32`, which is that concatenation by definition. -/
theorem fieldsAreLittleEndian : Obligations.FieldsAreLittleEndian :=
  ⟨fun _ _ _ _ h0 h1 => memRead_two h0 h1, fun _ _ _ _ _ _ h0 h1 h2 h3 => memRead_four h0 h1 h2 h3⟩

end

section
/-! SUPPORT. What the statements of 45_operations.md need beside the inversion lemmas: a word without `rst` is no RESET
(rule R62), and the rows of the transition table for a consumed byte (rule R125). -/

namespace Sys2Proof.Machine

open Sys2Proof

/-- RESET's row of the operation table looks at the port `rst` alone. -/
theorem decode_ne_reset_of_rst_low {w : Cmd} (h : cmdRst w = false) : decode w ≠ .reset := by
  have hrow : w &&& 0x800#12 ≠ 0x800#12 := fun e => by
    have hbit : cmdRst w = true := by simpa [cmdRst] using congrArg (fun v => v.getLsbD 11) e
    simp [h] at hbit
  rw [decode, if_neg hrow]
  split_ifs <;> nofun

/-- A halted block is not ready, whatever word is on the ports (rules R34, R139). -/
theorem inReady_halted {s : State} (h : s.fsm = Fsm.halted) (w : Cmd) : inReady s w = false := by
  simp [inReady, h]

/-- No byte is consumed while `in_ready` is low (rule R61). -/
theorem consumes_of_not_inReady {s : State} {w : Cmd} (h : inReady s w = false) : consumes s w = false := by
  simp [consumes, h]

/-- The `hit = 1` branch of rule R126 comes before the branches on `fsm` (rule R129). -/
theorem consumeByte_boundary {s : State} {d : Byte} (h : isBoundary s d = true) :
    consumeByte d s = .next (takeBoundary (observeByte d s)) := by
  rw [consumeByte, if_pos h]

/-- Where a consumed byte takes `fsm` and `pkt_cnt`: the four rows of a consuming step (rules R125, R129 to R131). -/
theorem consumeByte_fsm_pktCnt {s t : State} {d : Byte} (h : Running s)
    (ht : consumeByte d (clearStrobes s) = .next t) :
    (isBoundary s d = true → t.fsm = Fsm.collecting ∧ t.pktCnt = 0#6) ∧
    (isBoundary s d = false → s.fsm = Fsm.seekingSync → t.fsm = Fsm.seekingSync ∧ t.pktCnt = s.pktCnt) ∧
    (isBoundary s d = false → s.fsm = Fsm.collecting → s.pktCnt ≠ 59#6 →
      t.fsm = Fsm.collecting ∧ t.pktCnt = s.pktCnt + 1#6) ∧
    (isBoundary s d = false → s.fsm = Fsm.collecting → s.pktCnt = 59#6 →
      t.fsm = Fsm.seekingSync ∧ t.pktCnt = 0#6) := by
  rcases consumeByte_running h ht with ⟨hb, rfl⟩ | ⟨hb, hf, rfl⟩ | ⟨hb, hf, hc, rfl⟩ | ⟨hb, hf, hc, rfl⟩
  · simp [hb]
  · simp [hb, hf]
  · have hopen : s.pktCnt ≠ 59#6 := fun e => by simp [e] at hc
    simp [hb, hf, hopen]
  · simp [hb, hf, hc, afterCompletion]

end Sys2Proof.Machine
end

section
/-! The statements of 45_operations.md about a boundary, the transition table and HALTED. -/

open Sys2Proof Sys2Proof.Machine

/-- Settles O14: the step takes the boundary branch of rule R126, and a hit leaves the window empty. -/
theorem boundaryByteStartsAPacket : Obligations.BoundaryByteStartsAPacket := by
  intro s d hr hb
  have hwin : (syncObserve s.win d).2 = [] := syncObserve_hit_window hb
  have hbyte := consumeByte_boundary (s := clearStrobes s) hb
  rw [exec_byte, running_not_halted hr.legal hr.notHalted, hbyte, observeByte, clearStrobes_win, hwin]
  rfl

/-- Settles O26, by the cases of a step; the rows of a consumed byte are `consumeByte_fsm_pktCnt`. -/
theorem transitionTable : Obligations.TransitionTable := by
  intro i s t h
  rcases exec_cases h with
    ⟨rfl, rfl⟩ | ⟨hi, -, hh, rfl⟩ | ⟨hr, rfl, rfl⟩ | ⟨hr, rfl, rfl⟩ | ⟨hr, rfl, rfl⟩ | ⟨hr, d, rfl, ht⟩
  · simp
  · simp [hi, hh]
  · simp [hr.notHalted]
  · simp [hr.notHalted]
  · simp [hr.notHalted]
  · simpa [hr.notHalted] using consumeByte_fsm_pktCnt hr ht

/-- Settles O13: the word is no RESET, so the step is the halted branch of `running`. -/
theorem haltedAbsorbsAllButReset : Obligations.HaltedAbsorbsAllButReset := by
  intro s w hl hh hrst
  have hready := inReady_halted hh w
  exact ⟨exec_halted (decode_ne_reset_of_rst_low hrst) hl hh, hready, consumes_of_not_inReady hready⟩

end

section
/-! SUPPORT. The command word as its four control ports above its eight data bits (rule R60), and the row of the
operation table each operation has (rule R62). -/

namespace Sys2Proof.Machine

open Sys2Proof

/-- `CMD[11:8]`, the ports `rst`, `stop`, `src_err` and `in_valid` (rule R60). -/
def cmdPorts (w : Cmd) : BitVec 4 := w.extractLsb' 8 4

/-- A command word is its control ports above its data bits. -/
theorem cmdPorts_append_cmdData (w : Cmd) : cmdPorts w ++ cmdData w = w := by
  apply BitVec.eq_of_getLsbD_eq
  intro k hk
  rw [BitVec.getLsbD_append, cmdPorts, cmdData, BitVec.getLsbD_extractLsb', BitVec.getLsbD_extractLsb']
  by_cases h8 : k < 8
  · simp [h8]
  · have h4 : k - 8 < 4 := by omega
    have hk8 : 8 + (k - 8) = k := by omega
    simp [h8, h4, hk8]

/-- A value above a byte is determined by the two. -/
theorem append_byte_eq_iff {n : Nat} (h g : BitVec n) (d e : Byte) : h ++ d = g ++ e ↔ h = g ∧ d = e := by
  refine ⟨fun heq => ?_, fun ⟨hh, hd⟩ => by rw [hh, hd]⟩
  have hn := congrArg BitVec.toNat heq
  rw [toNat_append_eq, toNat_append_eq] at hn
  have := d.isLt
  have := e.isLt
  exact ⟨BitVec.eq_of_toNat_eq (by omega), BitVec.eq_of_toNat_eq (by omega)⟩

/-- A row that ignores the data bits looks at the control ports alone. -/
theorem and_ports_eq_iff (w : Cmd) (m p : BitVec 4) : w &&& (m ++ 0#8) = p ++ 0#8 ↔ cmdPorts w &&& m = p := by
  conv_lhs => rw [← cmdPorts_append_cmdData w, BitVec.and_append, append_byte_eq_iff]
  simp

/-- The four ports as bits of the four-bit port field. -/
theorem cmd_ports_bits (w : Cmd) :
    cmdRst w = (cmdPorts w).getLsbD 3 ∧ cmdStop w = (cmdPorts w).getLsbD 2 ∧
      cmdSrcErr w = (cmdPorts w).getLsbD 1 ∧ cmdInValid w = (cmdPorts w).getLsbD 0 := by
  simp [cmdRst, cmdStop, cmdSrcErr, cmdInValid, cmdPorts]

/-- The RESET row: `rst`. -/
theorem and_reset_mask_iff (w : Cmd) : w &&& 0x800#12 = 0x800#12 ↔ cmdRst w = true := by
  obtain ⟨hr, -⟩ := cmd_ports_bits w
  rw [hr]
  refine (and_ports_eq_iff w 0x8#4 0x8#4).trans ?_
  generalize cmdPorts w = h
  revert h
  decide

/-- The STOP row: `stop` without `rst`. -/
theorem and_stop_mask_iff (w : Cmd) : w &&& 0xC00#12 = 0x400#12 ↔ cmdRst w = false ∧ cmdStop w = true := by
  obtain ⟨hr, hs, -⟩ := cmd_ports_bits w
  rw [hr, hs]
  refine (and_ports_eq_iff w 0xC#4 0x4#4).trans ?_
  generalize cmdPorts w = h
  revert h
  decide

/-- The SRCERR row: `src_err` without `rst` and `stop`. -/
theorem and_srcerr_mask_iff (w : Cmd) :
    w &&& 0xE00#12 = 0x200#12 ↔ cmdRst w = false ∧ cmdStop w = false ∧ cmdSrcErr w = true := by
  obtain ⟨hr, hs, he, -⟩ := cmd_ports_bits w
  rw [hr, hs, he]
  refine (and_ports_eq_iff w 0xE#4 0x2#4).trans ?_
  generalize cmdPorts w = h
  revert h
  decide

/-- The BYTE row: `in_valid` without the three ports before it. -/
theorem and_byte_mask_iff (w : Cmd) :
    w &&& 0xF00#12 = 0x100#12 ↔
      cmdRst w = false ∧ cmdStop w = false ∧ cmdSrcErr w = false ∧ cmdInValid w = true := by
  obtain ⟨hr, hs, he, hv⟩ := cmd_ports_bits w
  rw [hr, hs, he, hv]
  refine (and_ports_eq_iff w 0xF#4 0x1#4).trans ?_
  generalize cmdPorts w = h
  revert h
  decide

/-- The IDLE row: none of the four ports. -/
theorem and_idle_mask_iff (w : Cmd) :
    w &&& 0xF00#12 = 0x000#12 ↔
      cmdRst w = false ∧ cmdStop w = false ∧ cmdSrcErr w = false ∧ cmdInValid w = false := by
  obtain ⟨hr, hs, he, hv⟩ := cmd_ports_bits w
  rw [hr, hs, he, hv]
  refine (and_ports_eq_iff w 0xF#4 0x0#4).trans ?_
  generalize cmdPorts w = h
  revert h
  decide

/-- A word is the encoding of BYTE `d` when its ports are the BYTE row's and its data is `d` (rules R63, R69). -/
theorem eq_encode_byte_iff (w : Cmd) (d : Byte) :
    w = encode (.byte d) ↔ w &&& 0xF00#12 = 0x100#12 ∧ d = cmdData w := by
  have henc : encode (.byte d) = 0x1#4 ++ d := by
    revert d
    decide
  have hmask := and_ports_eq_iff w 0xF#4 0x1#4
  have hall : cmdPorts w &&& 0xF#4 = cmdPorts w := BitVec.and_allOnes
  rw [hall] at hmask
  rw [henc]
  conv_lhs => rw [← cmdPorts_append_cmdData w, append_byte_eq_iff]
  rw [eq_comm (a := d)]
  exact and_congr hmask.symm Iff.rfl

/-- Every operation's encoding fits its row. -/
theorem fitsItsRow (i : Instr) : Laws.FitsItsRow.Statement i := by
  cases i with
  | reset => exact Laws.FitsItsRow.reset
  | stop => exact Laws.FitsItsRow.stop
  | srcerr => exact Laws.FitsItsRow.srcerr
  | byte d => exact Laws.FitsItsRow.byte d
  | idle => exact Laws.FitsItsRow.idle

/-- The priority of the ports: the operation of a word is the first one asserted (rule R62). -/
theorem decode_eq_by_ports (w : Cmd) :
    decode w =
      if cmdRst w then .reset else if cmdStop w then .stop else if cmdSrcErr w then .srcerr
      else if cmdInValid w then .byte (cmdData w) else .idle := by
  unfold decode
  simp only [and_reset_mask_iff, and_stop_mask_iff, and_srcerr_mask_iff, and_byte_mask_iff]
  cases cmdRst w <;> cases cmdStop w <;> cases cmdSrcErr w <;> simp

end Sys2Proof.Machine
end

section
/-! The statements of 30_encoding.md about the command word. -/

open Sys2Proof Sys2Proof.Machine

/-- Settles O1: the priority of the ports, one port after the other. -/
theorem decodeFollowsPortPriority : Obligations.DecodeFollowsPortPriority := by
  intro w
  rw [decode_eq_by_ports]
  cases cmdRst w with
  | true => simp
  | false =>
    cases cmdStop w with
    | true => simp
    | false =>
      cases cmdSrcErr w with
      | true => simp
      | false => cases cmdInValid w <;> simp [eq_comm]

/-- Settles O3: each row's mask says what the priority of the ports says, and only BYTE reads data bits. -/
theorem decodeEncodeAgree : Obligations.DecodeEncodeAgree := by
  have hrow : ∀ (w : Cmd) (i : Instr), decode w = i ↔ w &&& careBits i = encode i := by
    intro w i
    obtain ⟨hreset, hstop, hsrcerr, hbyte, hidle⟩ := decodeFollowsPortPriority w
    cases i with
    | reset => exact hreset.trans (and_reset_mask_iff w).symm
    | stop => exact hstop.trans (and_stop_mask_iff w).symm
    | srcerr => exact hsrcerr.trans (and_srcerr_mask_iff w).symm
    | idle => exact hidle.trans (and_idle_mask_iff w).symm
    | byte d =>
      have hcare : w &&& careBits (.byte d) = w := BitVec.and_allOnes
      rw [hcare, hbyte d, eq_encode_byte_iff, and_byte_mask_iff]
      tauto
  refine ⟨fun i => ?_, hrow⟩
  obtain ⟨-, -, hx⟩ := fitsItsRow i
  exact (hrow _ i).mpr hx

/-- Settles O2: the rows' masks are conditions on the ports, of which exactly one holds. -/
theorem everyWordMatchesExactlyOneRow : Obligations.EveryWordMatchesExactlyOneRow := by
  intro w
  simp only [opRows, OpRow.covers, List.filter_cons, List.filter_nil, beq_iff_eq, and_reset_mask_iff,
    and_stop_mask_iff, and_srcerr_mask_iff, and_byte_mask_iff, and_idle_mask_iff]
  cases cmdRst w with
  | true => simp
  | false =>
    cases cmdStop w with
    | true => simp
    | false =>
      cases cmdSrcErr w with
      | true => simp
      | false => cases cmdInValid w <;> simp

/-- Settles O4: twelve words, decoded. -/
theorem tableWordsDecode : Obligations.TableWordsDecode := by
  unfold Obligations.TableWordsDecode
  decide

end

section
/-! SUPPORT. The third branch of rule R126. -/

namespace Sys2Proof.Machine

open Sys2Proof

/-- In COLLECTING a byte without a hit is fed to the Packet Assembler (rule R131). -/
theorem consumeByte_collecting {s : State} {d : Byte} (hf : s.fsm = Fsm.collecting) (hb : isBoundary s d = false) :
    consumeByte d s = collectByte d (observeByte d s) := by
  simp [consumeByte, hf, hb]

end Sys2Proof.Machine
end

section
/-! The statements of 45_operations.md section 1 about the sampled word, and of sections 2 and 3 about what each
operation does in a running state. -/

open Sys2Proof Sys2Proof.Machine

/-- Settles O5: the two cases of sampling. -/
theorem stepRunsTheSampledWord : Obligations.StepRunsTheSampledWord := by
  refine ⟨fun s w ws h => ?_, fun s h => ?_⟩
  · rw [step, sampleCommand_cons h]
  · rw [step, sampleCommand_nil h]

/-- Settles O6: a command word survives the cut to 12 bits, and its encoding decodes to the operation. -/
theorem drivenWordIsRun : Obligations.DrivenWordIsRun := by
  have hdriven : ∀ (s : State) (i : Instr) (nbits : Nat), 12 ≤ nbits →
      step (s.withFetchWord nbits (encode i).toNat) = exec i s := by
    intro s i nbits hn
    have hlt : (encode i).toNat < 2 ^ nbits := (encode i).isLt.trans_le (Nat.pow_le_pow_right (by decide) hn)
    have hw : BitVec.ofNat 12 ((encode i).toNat % 2 ^ nbits) = encode i := by
      rw [Nat.mod_eq_of_lt hlt, BitVec.ofNat_toNat, BitVec.setWidth_eq]
    obtain ⟨hsample, -⟩ := stepRunsTheSampledWord
    rw [hsample _ _ s.inputs rfl, hw, decodeEncodeAgree.1 i]
    rfl
  exact fun s i => ⟨hdriven s i 12 (by decide), hdriven s i 16 (by decide)⟩

/-- Settles O9: RESET is `resetAll`, and the empty buffer reads 0x00 everywhere. -/
theorem resetSetsEveryElement : Obligations.ResetSetsEveryElement :=
  fun s => ⟨resetAll s, exec_reset s, fun a _ => Memory.read_nil a, rfl⟩

/-- Settles O10: IDLE adds nothing to the frame of a step, halted or not. -/
theorem idleClearsTheStrobesOnly : Obligations.IdleClearsTheStrobesOnly := by
  intro s hl
  rw [exec_idle]
  by_cases hh : s.fsm = Fsm.halted
  · exact running_halted hl hh _
  · exact running_not_halted hl hh _

/-- Settles O11: STOP is `halt` with its cause. -/
theorem stopHaltsWithCauseOne : Obligations.StopHaltsWithCauseOne := by
  intro s hr
  rw [exec_stop]
  exact running_not_halted hr.legal hr.notHalted _

/-- Settles O12: SRCERR is `halt` with its cause. -/
theorem srcerrHaltsWithCauseTwo : Obligations.SrcerrHaltsWithCauseTwo := by
  intro s hr
  rw [exec_srcerr]
  exact running_not_halted hr.legal hr.notHalted _

/-- Settles O15: without a hit, SEEKING_SYNC takes the second branch of rule R126. -/
theorem seekingByteUpdatesTheWindowOnly : Obligations.SeekingByteUpdatesTheWindowOnly := by
  intro s d hr hf hb
  have hb' : ¬isBoundary (clearStrobes s) d = true := Bool.eq_false_iff.mp hb
  have hf' : (clearStrobes s).fsm = Fsm.seekingSync := hf
  rw [exec_byte, running_not_halted hr.legal hr.notHalted, consumeByte, if_neg hb', if_pos hf']
  rfl

/-- Settles O16: without a hit, COLLECTING feeds the byte, which does not complete the packet. -/
theorem collectingByteIsStored : Obligations.CollectingByteIsStored := by
  intro s d hr hf hb hc
  rw [exec_byte, running_not_halted hr.legal hr.notHalted, consumeByte_collecting (s := clearStrobes s) hf hb,
    collectByte_open (s := observeByte d (clearStrobes s)) d hc]
  rfl

/-- Settles O17: without a hit, COLLECTING feeds the byte, which completes the packet. -/
theorem sixtiethByteDecodesAndValidates : Obligations.SixtiethByteDecodesAndValidates := by
  intro s d hr hf hb hc
  rw [exec_byte, running_not_halted hr.legal hr.notHalted, consumeByte_collecting (s := clearStrobes s) hf hb,
    collectByte_done (s := clearStrobes s) d hc]
  rfl

/-- Settles O18: the 59 bytes are read in offset order, and the completing byte stands after them. -/
theorem completedPacketIsTheStoredBytes : Obligations.CompletedPacketIsTheStoredBytes := by
  intro m d
  refine ⟨packetWith_length m d, ?_, fun a ha => ?_⟩
  · simp [packetWith, Config.pktSize]
  · rw [packetWith, List.getElem?_append_left (by simpa [Config.pktSize] using ha)]
    simp [Config.pktSize, ha]

/-- Settles O19: the flag is the first check of `stateFault`. -/
theorem faultsBeforeTheFirstReset : Obligations.FaultsBeforeTheFirstReset := by
  intro i s hi h
  exact exec_fault hi (by simp [stateFault, h])

/-- Settles O20: the checks of `stateFault` after the first, in their order. -/
theorem faultsOnValuesNoRuleWrites : Obligations.FaultsOnValuesNoRuleWrites := by
  intro i s hi hreset
  refine ⟨fun hf => ?_, fun hf hh => ?_, fun hf hh hc => ?_, fun hf hh hc hw => ?_⟩ <;>
    refine exec_fault hi ?_ <;> unfold stateFault
  · simp [hreset, hf]
  · simp [hreset, hf, hh]
  · simp [hreset, hf, hh, Config.pktSize, hc]
  · simp [hreset, hf, hh, Config.pktSize, Nat.not_le.mpr hc, Config.winLen, hw]

/-- Settles O46: the length is the decoder's only check. -/
theorem onlySixtyByteBuffersDecode : Obligations.OnlySixtyByteBuffersDecode :=
  fun _ => ⟨decodeFrame_of_length, fun h => if_neg h⟩

end

section
/-! SUPPORT. Legal states never stop (rules R103, R143), and every step keeps them legal and keeps the invariants of
rule R38: one lemma for each update of the state. -/

namespace Sys2Proof.Machine

open Sys2Proof

/-- An operation answers a next state, or is stopped by the state's own fault. -/
theorem exec_next_or_fault (i : Instr) (s : State) :
    (∃ t, exec i s = .next t) ∨ ∃ f, i ≠ .reset ∧ stateFault s = some f := by
  by_cases hi : i = .reset
  · exact .inl ⟨resetAll s, by rw [hi, exec_reset]⟩
  cases hs : stateFault s with
  | some f => exact .inr ⟨f, hi, rfl⟩
  | none =>
    have hl : Legal s := (stateFault_eq_none_iff s).mp hs
    by_cases hh : s.fsm = Fsm.halted
    · exact .inl ⟨_, exec_halted hi hl hh⟩
    left
    cases i with
    | reset => exact absurd rfl hi
    | stop => exact ⟨_, stopHaltsWithCauseOne s ⟨hl, hh⟩⟩
    | srcerr => exact ⟨_, srcerrHaltsWithCauseTwo s ⟨hl, hh⟩⟩
    | idle => exact ⟨_, idleClearsTheStrobesOnly s hl⟩
    | byte d =>
      rw [exec_byte, running_not_halted hl hh]
      exact consumeByte_next (s := clearStrobes s) d hl.pktCnt

/-- In a legal state every operation completes. -/
theorem exec_next_of_legal (i : Instr) {s : State} (h : Legal s) : ∃ t, exec i s = .next t := by
  rcases exec_next_or_fault i s with hn | ⟨f, -, hf⟩
  · exact hn
  · rw [(stateFault_eq_none_iff s).mpr h] at hf
    cases hf

/-- A counter below 59 does not wrap. -/
theorem toNat_pktCnt_succ {c : BitVec 6} (h : c.toNat < 59) : (c + 1#6).toNat = c.toNat + 1 := by
  simp only [BitVec.toNat_add, BitVec.toNat_ofNat]
  omega

theorem legal_resetAll (s : State) : Legal (resetAll s) := ⟨rfl, by simp, by simp, by simp, by simp⟩

theorem legal_clearStrobes {s : State} (h : Legal s) : Legal (clearStrobes s) :=
  ⟨h.resetDone, h.fsm, h.haltCause, h.pktCnt, h.win⟩

theorem legal_observeByte (d : Byte) {s : State} (h : Legal s) : Legal (observeByte d s) :=
  ⟨h.resetDone, h.fsm, h.haltCause, h.pktCnt, syncObserve_length d h.win⟩

theorem legal_halt {c : BitVec 2} {s : State} (hc : c ≠ HaltCause.unused) (h : Legal s) : Legal (halt c s) :=
  ⟨h.resetDone, by simp, hc, by simp, h.win⟩

/-- A consumed byte keeps the state legal. -/
theorem consumeByte_keeps_legal {s t : State} {d : Byte} (h : Running s)
    (ht : consumeByte d (clearStrobes s) = .next t) : Legal t := by
  have ho : Legal (observeByte d (clearStrobes s)) := legal_observeByte d (legal_clearStrobes h.legal)
  rcases consumeByte_running h ht with ⟨-, rfl⟩ | ⟨-, -, rfl⟩ | ⟨-, -, hc, rfl⟩ | ⟨-, -, -, rfl⟩
  · exact ⟨ho.resetDone, by simp, ho.haltCause, by simp, ho.win⟩
  · exact ho
  · have hc' : (s.pktCnt + 1#6).toNat < 60 := by
      rw [toNat_pktCnt_succ hc]
      omega
    exact ⟨ho.resetDone, ho.fsm, ho.haltCause, hc', ho.win⟩
  · exact ⟨ho.resetDone, by simp [afterCompletion], ho.haltCause, by simp [afterCompletion], ho.win⟩

/-- Every step leaves a legal state, whatever the state before. -/
theorem exec_legal {i : Instr} {s t : State} (h : exec i s = .next t) : Legal t := by
  rcases exec_cases h with
    ⟨-, rfl⟩ | ⟨-, hl, -, rfl⟩ | ⟨hr, -, rfl⟩ | ⟨hr, -, rfl⟩ | ⟨hr, -, rfl⟩ | ⟨hr, d, -, ht⟩
  · exact legal_resetAll s
  · exact legal_clearStrobes hl
  · exact legal_halt (by simp) (legal_clearStrobes hr.legal)
  · exact legal_halt (by simp) (legal_clearStrobes hr.legal)
  · exact legal_clearStrobes hr.legal
  · exact consumeByte_keeps_legal hr ht

theorem legal_of_invariants {s : State} (h : Invariants s) : Legal s := by
  refine ⟨h.resetDone, ?_, ?_, Nat.lt_succ_of_le h.pktCnt, h.win⟩
  · rcases h.fsm with hf | hf | hf <;> simp [hf]
  · by_cases hh : s.fsm = Fsm.halted
    · obtain ⟨-, hc | hc⟩ := h.halted hh <;> simp [hc]
    · simp [h.notHalted hh]

theorem invariants_reset : Invariants State.reset := by
  constructor <;> decide

/-- The invariants say nothing about what the host will drive. -/
theorem invariants_host {s : State} (h : Invariants s) (ws : List Cmd) (n : Nat) :
    Invariants { s with inputs := ws, freeCmds := n } :=
  ⟨h.resetDone, h.win, h.pktCnt, h.fsm, h.seeking, h.halted, h.notHalted, h.sync, h.recValid, h.strobes, h.buf,
    h.alphabet⟩

theorem invariants_sampleCommand {s : State} (h : Invariants s) : Invariants (sampleCommand s).2 := by
  cases hi : s.inputs with
  | nil =>
    rw [sampleCommand_nil hi]
    exact invariants_host h _ _
  | cons w ws =>
    rw [sampleCommand_cons hi]
    exact invariants_host h _ _

theorem invariants_clearStrobes {s : State} (h : Invariants s) : Invariants (clearStrobes s) :=
  ⟨h.resetDone, h.win, h.pktCnt, h.fsm, h.seeking, h.halted, h.notHalted, by simp, by simp, by simp, h.buf, h.alphabet⟩

/-- SyncObserve keeps the window short, and only qualifying bytes enter it. -/
theorem invariants_observeByte (d : Byte) {s : State} (h : Invariants s) : Invariants (observeByte d s) :=
  ⟨h.resetDone, syncObserve_length d h.win, h.pktCnt, h.fsm, h.seeking, h.halted, h.notHalted, h.sync, h.recValid,
    h.strobes, h.buf, fun b hb => by
      rcases syncObserve_mem hb with hw | ⟨rfl, hq⟩
      · exact h.alphabet b hw
      · exact hq⟩

/-- Entering HALTED with one of the two causes and both strobes 0 (rule R140). -/
theorem invariants_halt {c : BitVec 2} {s : State} (hc : c = HaltCause.stopped ∨ c = HaltCause.sourceUnavailable)
    (h : Invariants s) (hs : s.oSync = false) (hv : s.oRecValid = false) : Invariants (halt c s) :=
  ⟨h.resetDone, h.win, by simp, by simp, by simp, by simp [hc], by simp, by simp [hs], by simp [hv], by simp [hs],
    h.buf, h.alphabet⟩

/-- A boundary outside HALTED, with `o_rec_valid` cleared (rule R129). -/
theorem invariants_takeBoundary {s : State} (h : Invariants s) (hh : s.fsm ≠ Fsm.halted) (hv : s.oRecValid = false) :
    Invariants (takeBoundary s) :=
  ⟨h.resetDone, h.win, by simp, by simp, by simp, by simp, by simp [h.notHalted hh], by simp, by simp [hv],
    by simp [hv], h.buf, h.alphabet⟩

/-- A byte stored in COLLECTING, with both strobes 0 (rule R91). -/
theorem invariants_storeByte (d : Byte) {s : State} (h : Invariants s) (hf : s.fsm = Fsm.collecting)
    (hc : s.pktCnt.toNat < 59) (hs : s.oSync = false) (hv : s.oRecValid = false) :
    Invariants { s with buf := Memory.write s.buf (feedOffset s) d, pktCnt := s.pktCnt + 1#6 } := by
  have hpos : feedOffset s < Config.pktSize := Nat.lt_of_lt_of_le hc (by decide)
  have hcnt : (s.pktCnt + 1#6).toNat ≤ 59 := by
    rw [toNat_pktCnt_succ hc]
    omega
  exact ⟨h.resetDone, h.win, hcnt, h.fsm, by simp [hf], by simp [hf], h.notHalted, by simp [hs], by simp [hv],
    by simp [hs], Memory.wf_write d h.buf hpos, h.alphabet⟩

/-- A completed packet, with both strobes 0 before (rule R131). -/
theorem invariants_afterCompletion (d : Byte) {s : State} (h : Invariants s) (hh : s.fsm ≠ Fsm.halted)
    (hs : s.oSync = false) : Invariants (afterCompletion d s) := by
  have ho : Invariants (observeByte d s) := invariants_observeByte d h
  have hpos : 59 < Config.pktSize := by decide
  exact ⟨h.resetDone, ho.win, by simp [afterCompletion], by simp [afterCompletion], fun _ => rfl,
    by simp [afterCompletion], fun _ => h.notHalted hh, by simp [afterCompletion, hs], fun _ => ⟨rfl, rfl⟩,
    by simp [afterCompletion, hs], Memory.wf_write d h.buf hpos, ho.alphabet⟩

theorem invariants_resetAll (s : State) : Invariants (resetAll s) := invariants_host invariants_reset _ _

/-- A consumed byte keeps the invariants, by the rules R129, R130 and R131 (with its two cases). -/
theorem consumeByte_keeps_invariants {s t : State} {d : Byte} (h : Invariants s) (hr : Running s)
    (ht : consumeByte d (clearStrobes s) = .next t) : Invariants t := by
  have hc : Invariants (clearStrobes s) := invariants_clearStrobes h
  have ho : Invariants (observeByte d (clearStrobes s)) := invariants_observeByte d hc
  rcases consumeByte_running hr ht with ⟨-, rfl⟩ | ⟨-, -, rfl⟩ | ⟨-, hf, hcnt, rfl⟩ | ⟨-, -, -, rfl⟩
  · exact invariants_takeBoundary ho hr.notHalted rfl
  · exact ho
  · exact invariants_storeByte d ho hf hcnt rfl rfl
  · exact invariants_afterCompletion d hc hr.notHalted rfl

/-- Every operation keeps the invariants. -/
theorem exec_keeps_invariants {i : Instr} {s t : State} (h : Invariants s) (ht : exec i s = .next t) :
    Invariants t := by
  have hc : Invariants (clearStrobes s) := invariants_clearStrobes h
  rcases exec_cases ht with
    ⟨-, rfl⟩ | ⟨-, -, -, rfl⟩ | ⟨-, -, rfl⟩ | ⟨-, -, rfl⟩ | ⟨-, -, rfl⟩ | ⟨hr, d, -, ht⟩
  · exact invariants_resetAll s
  · exact hc
  · exact invariants_halt (.inl rfl) hc rfl rfl
  · exact invariants_halt (.inr rfl) hc rfl rfl
  · exact hc
  · exact consumeByte_keeps_invariants h hr ht

/-- From a state that meets the invariants every run completes in one that does. -/
theorem runCmds_keeps_invariants (ws : List Cmd) {s : State} (h : Invariants s) :
    ∃ t, runCmds ws s = .next t ∧ Invariants t := by
  induction ws generalizing s with
  | nil => exact ⟨s, rfl, h⟩
  | cons w ws ih =>
    obtain ⟨u, hu⟩ := exec_next_of_legal (decode w) (legal_of_invariants h)
    rw [runCmds_next ws hu]
    exact ih (exec_keeps_invariants h hu)

end Sys2Proof.Machine
end

section
/-! The statements of 10_state.md sections 7 and 8 and of 60_exceptions.md section 1 about the states a step leaves. -/

open Sys2Proof Sys2Proof.Machine

/-- Settles O21: no operation stops in a legal state, and every step leaves a legal one. -/
theorem legalStatesNeverStop : Obligations.LegalStatesNeverStop := by
  intro i s h
  obtain ⟨t, ht⟩ := exec_next_of_legal i h
  exact ⟨t, ht, exec_legal ht⟩

/-- Settles O22: the registers of the reset state, one invariant after the other. -/
theorem resetStateMeetsTheInvariants : Obligations.ResetStateMeetsTheInvariants := invariants_reset

/-- Settles O23: sampling leaves everything the invariants speak of, and every operation keeps them. -/
theorem stepKeepsTheInvariants : Obligations.StepKeepsTheInvariants :=
  fun _ _ h ht => exec_keeps_invariants (invariants_sampleCommand h) ht

/-- Settles O24: the first word is RESET, which establishes the invariants; the rest of the run keeps them. -/
theorem runsFromResetNeverStop : Obligations.RunsFromResetNeverStop := by
  intro s w ws hw
  obtain ⟨hreset, -⟩ := decodeFollowsPortPriority w
  have hfirst : exec (decode w) s = .next (resetAll s) := by rw [hreset.mpr hw, exec_reset]
  rw [runCmds_next ws hfirst]
  exact runCmds_keeps_invariants ws (invariants_resetAll s)

/-- Settles O25: the sampled state meets the invariants too, so it is legal. -/
theorem invariantStatesAlwaysStep : Obligations.InvariantStatesAlwaysStep :=
  fun _ h => exec_next_of_legal _ (legal_of_invariants (invariants_sampleCommand h))

end

section
/-! SUPPORT. What an operation reads: of the host's words nothing (rules R36, R61), of the packet buffer the bytes below
`pkt_cnt` (rules R22, R45). Each lemma runs the operation on the other state by the statement that gives its next
state. -/

namespace Sys2Proof.Machine

open Sys2Proof

theorem legal_host {s : State} (h : Legal s) (ws : List Cmd) (n : Nat) :
    Legal { s with inputs := ws, freeCmds := n } :=
  ⟨h.resetDone, h.fsm, h.haltCause, h.pktCnt, h.win⟩

theorem legal_buf {s : State} (h : Legal s) (m : List Host.Cell) : Legal { s with buf := m } :=
  ⟨h.resetDone, h.fsm, h.haltCause, h.pktCnt, h.win⟩

theorem running_host {s : State} (h : Running s) (ws : List Cmd) (n : Nat) :
    Running { s with inputs := ws, freeCmds := n } :=
  ⟨legal_host h.legal ws n, h.notHalted⟩

theorem running_buf {s : State} (h : Running s) (m : List Host.Cell) : Running { s with buf := m } :=
  ⟨legal_buf h.legal m, h.notHalted⟩

/-- The four ways a consumed byte goes, with other words placed by the host. -/
theorem exec_byte_host {d : Byte} {s t : State} (hr : Running s) (ht : consumeByte d (clearStrobes s) = .next t)
    (ws : List Cmd) (n : Nat) :
    t.inputs = s.inputs ∧ t.freeCmds = s.freeCmds ∧
      exec (.byte d) { s with inputs := ws, freeCmds := n } = .next { t with inputs := ws, freeCmds := n } := by
  have hr' := running_host hr ws n
  rcases consumeByte_running hr ht with ⟨hb, rfl⟩ | ⟨hb, hf, rfl⟩ | ⟨hb, hf, hc, rfl⟩ | ⟨hb, hf, hc, rfl⟩ <;>
    refine ⟨rfl, rfl, ?_⟩
  · rw [exec_byte, running_not_halted hr'.legal hr'.notHalted]
    exact consumeByte_boundary hb
  · exact seekingByteUpdatesTheWindowOnly _ d hr' hf hb
  · exact collectingByteIsStored _ d hr' hf hb hc
  · exact sixtiethByteDecodesAndValidates _ d hr' hf hb hc

/-- A completed packet depends on the 59 bytes below its last one only (rule R91). -/
theorem packetWith_congr {m m' : List Host.Cell} (d : Byte)
    (h : ∀ a, a < 59 → Memory.read m' a = Memory.read m a) : packetWith m' d = packetWith m d := by
  have hmap : (List.range (Config.pktSize - 1)).map (Memory.read m') =
      (List.range (Config.pktSize - 1)).map (Memory.read m) :=
    List.map_congr_left fun a ha => h a (List.mem_range.mp ha)
  rw [packetWith, packetWith, hmap]

/-- The four ways a consumed byte goes, with another buffer that agrees below `pkt_cnt`. -/
theorem exec_byte_buf {d : Byte} {s t : State} {m : List Host.Cell} (hr : Running s)
    (hm : ∀ a, a < s.pktCnt.toNat → Memory.read m a = Memory.read s.buf a)
    (ht : consumeByte d (clearStrobes s) = .next t) :
    ∃ n, exec (.byte d) { s with buf := m } = .next { t with buf := n } ∧
      ∀ a, a < t.pktCnt.toNat → Memory.read n a = Memory.read t.buf a := by
  have hr' := running_buf hr m
  rcases consumeByte_running hr ht with ⟨hb, rfl⟩ | ⟨hb, hf, rfl⟩ | ⟨hb, hf, hc, rfl⟩ | ⟨hb, hf, hc, rfl⟩
  · refine ⟨m, ?_, fun a ha => by simp at ha⟩
    rw [exec_byte, running_not_halted hr'.legal hr'.notHalted]
    exact consumeByte_boundary hb
  · exact ⟨m, seekingByteUpdatesTheWindowOnly _ d hr' hf hb, hm⟩
  · refine ⟨_, collectingByteIsStored _ d hr' hf hb hc, fun a ha => ?_⟩
    have ha' : a < s.pktCnt.toNat + 1 := by rwa [← toNat_pktCnt_succ hc]
    rw [feedOffset, Memory.read_write, Memory.read_write]
    by_cases he : s.pktCnt.toNat = a
    · rw [if_pos he, if_pos he]
    · rw [if_neg he, if_neg he]
      exact hm a (by omega)
  · have hp : packetWith m d = packetWith s.buf d :=
      packetWith_congr d fun a ha => hm a (by simpa [hc] using ha)
    refine ⟨Memory.write m 59 d, ?_, fun a ha => by simp [afterCompletion] at ha⟩
    rw [sixtiethByteDecodesAndValidates _ d hr' hf hb hc, hp]
    rfl

/-- A consumed byte leaves the window SyncObserve leaves (rule R80). -/
theorem consumeByte_win {s t : State} {d : Byte} (h : Running s) (ht : consumeByte d (clearStrobes s) = .next t) :
    t.win = (syncObserve s.win d).2 := by
  rcases consumeByte_running h ht with ⟨-, rfl⟩ | ⟨-, -, rfl⟩ | ⟨-, -, -, rfl⟩ | ⟨-, -, -, rfl⟩ <;> rfl

/-- A consumed byte writes the buffer at the fed offset, if it is fed (rules R51, R91). -/
theorem consumeByte_buf {s t : State} {d : Byte} (h : Running s) (ht : consumeByte d (clearStrobes s) = .next t) :
    t.buf = ((fedOffset (.byte d) s).map fun a => Memory.write s.buf a d).getD s.buf := by
  rcases consumeByte_running h ht with ⟨hb, rfl⟩ | ⟨-, hf, rfl⟩ | ⟨hb, hf, -, rfl⟩ | ⟨hb, hf, hc, rfl⟩
  · simp [fedOffset, hb]
  · simp [fedOffset, hf]
  · simp [fedOffset, hf, hb]
  · simp [fedOffset, hf, hb, feedOffset, hc, afterCompletion]

theorem consumedByte_halted (i : Instr) {s : State} (h : s.fsm = Fsm.halted) : consumedByte i s = none := by
  cases i <;> simp [consumedByte, h]

theorem consumedByte_byte (d : Byte) {s : State} (h : s.fsm ≠ Fsm.halted) : consumedByte (.byte d) s = some d := by
  simp [consumedByte, h]

theorem fedOffset_of_not_collecting (i : Instr) {s : State} (h : s.fsm ≠ Fsm.collecting) : fedOffset i s = none := by
  cases i <;> simp [fedOffset, h]

/-- A byte that does not hit leaves no empty window where there was none (rule R83). -/
theorem syncObserve_ne_nil {w : List Byte} {d : Byte} (hw : w ≠ []) (h : (syncObserve w d).1 = false) :
    (syncObserve w d).2 ≠ [] := by
  unfold syncObserve syncObserveWith at *
  split at h <;> rename_i hd
  · rw [if_pos hd]
    split at h <;> rename_i hw3
    · split at h <;> rename_i hm
      · cases h
      · simp [hm]
    · simp
  · rwa [if_neg hd]

/-- In HALTED the operand of BYTE is not read. -/
theorem exec_byte_halted_operand {s : State} (h : s.fsm = Fsm.halted) (d e : Byte) :
    exec (.byte d) s = exec (.byte e) s := by
  cases hs : stateFault s with
  | some f => rw [exec_fault (i := .byte d) nofun hs, exec_fault (i := .byte e) nofun hs]
  | none =>
    have hl := (stateFault_eq_none_iff s).mp hs
    rw [exec_halted (i := .byte d) nofun hl h, exec_halted (i := .byte e) nofun hl h]

/-- The four control ports are the bits 11:8, which a shift by 8 keeps. -/
theorem ports_eq_of_shift_eq {w v : Cmd} (h : w >>> 8 = v >>> 8) :
    cmdRst w = cmdRst v ∧ cmdStop w = cmdStop v ∧ cmdSrcErr w = cmdSrcErr v ∧ cmdInValid w = cmdInValid v := by
  have hbit : ∀ k, w.getLsbD (8 + k) = v.getLsbD (8 + k) := fun k => by
    simpa using congrArg (fun x => x.getLsbD k) h
  exact ⟨hbit 3, hbit 2, hbit 1, hbit 0⟩

end Sys2Proof.Machine
end

section
/-! The statements of 10_state.md, 30_encoding.md and 41_packet_assembler.md about what an operation reads and leaves
unchanged. -/

open Sys2Proof Sys2Proof.Machine

/-- Settles O7, by the cases of a step: none reads the host's words or writes them. -/
theorem execLeavesHostInputs : Obligations.ExecLeavesHostInputs := by
  intro i s t ws n h
  rcases exec_cases h with
    ⟨rfl, rfl⟩ | ⟨hi, hl, hh, rfl⟩ | ⟨hr, rfl, rfl⟩ | ⟨hr, rfl, rfl⟩ | ⟨hr, rfl, rfl⟩ | ⟨hr, d, rfl, ht⟩
  · exact ⟨rfl, rfl, exec_reset _⟩
  · exact ⟨rfl, rfl, exec_halted hi (legal_host hl ws n) hh⟩
  · exact ⟨rfl, rfl, stopHaltsWithCauseOne _ (running_host hr ws n)⟩
  · exact ⟨rfl, rfl, srcerrHaltsWithCauseTwo _ (running_host hr ws n)⟩
  · exact ⟨rfl, rfl, idleClearsTheStrobesOnly _ (legal_host hr.legal ws n)⟩
  · exact exec_byte_host hr ht ws n

/-- Settles O8, by induction on the words: a step takes the first word off the list, and its operation does not see the
others; where the operation stops, it stops by a fault of the state, which the list is no part of. -/
theorem stepsRunThePlacedWords : Obligations.StepsRunThePlacedWords := by
  intro ws rest
  induction ws with
  | nil => exact fun s => core_run_zero _
  | cons w ws ih =>
    intro s
    have hstep : step { s with inputs := w :: ws ++ rest } = exec (decode w) { s with inputs := ws ++ rest } :=
      stepRunsTheSampledWord.1 _ w (ws ++ rest) rfl
    rcases exec_next_or_fault (decode w) { s with inputs := rest } with ⟨t, ht⟩ | ⟨f, hi, hf⟩
    · obtain ⟨hin, hfree, hother⟩ := execLeavesHostInputs _ _ t (ws ++ rest) s.freeCmds ht
      have ht' : { t with inputs := rest } = t := by
        have hrest : rest = t.inputs := hin.symm
        rw [hrest]
      have hu : step { s with inputs := w :: ws ++ rest } = .next { t with inputs := ws ++ rest } := by
        have hfree' : s.freeCmds = t.freeCmds := hfree.symm
        rw [hstep]
        refine hother.trans ?_
        rw [hfree']
      rw [List.length_cons, core_run_next _ hu, ih, runCmds_next ws ht, ht']
    · have hu : step { s with inputs := w :: ws ++ rest } = .fault f := by
        rw [hstep]
        exact exec_fault hi hf
      exact (core_run_fault ws.length hu).trans (runCmds_fault ws (exec_fault hi hf)).symm

/-- Settles O35, by the cases of a step: only a completed packet reads the buffer, and then all 59 bytes agree. -/
theorem staleBufferBytesAreNeverRead : Obligations.StaleBufferBytesAreNeverRead := by
  intro i s t m hm h
  rcases exec_cases h with
    ⟨rfl, rfl⟩ | ⟨hi, hl, hh, rfl⟩ | ⟨hr, rfl, rfl⟩ | ⟨hr, rfl, rfl⟩ | ⟨hr, rfl, rfl⟩ | ⟨hr, d, rfl, ht⟩
  · exact ⟨[], exec_reset _, fun _ _ => rfl, rfl⟩
  · exact ⟨m, exec_halted hi (legal_buf hl m) hh, hm, rfl⟩
  · exact ⟨m, stopHaltsWithCauseOne _ (running_buf hr m), by simp, rfl⟩
  · exact ⟨m, srcerrHaltsWithCauseTwo _ (running_buf hr m), by simp, rfl⟩
  · exact ⟨m, idleClearsTheStrobesOnly _ (legal_buf hr.legal m), hm, rfl⟩
  · obtain ⟨n, hn, hread⟩ := exec_byte_buf hr hm ht
    exact ⟨n, hn, hread, rfl⟩

/-- Settles O32, by the cases of a step: only RESET and a consumed byte write the window. That only a hit empties it is
`syncObserve_ne_nil`. -/
theorem windowChangesByObserveOrReset : Obligations.WindowChangesByObserveOrReset := by
  intro i s t h
  rcases exec_cases h with
    ⟨rfl, rfl⟩ | ⟨hi, hl, hh, rfl⟩ | ⟨hr, rfl, rfl⟩ | ⟨hr, rfl, rfl⟩ | ⟨hr, rfl, rfl⟩ | ⟨hr, d, rfl, ht⟩
  · simp
  · rw [consumedByte_halted i hh]
    exact ⟨fun _ => rfl, fun e => absurd e hi, fun hne he => absurd he hne⟩
  · exact ⟨fun _ => rfl, nofun, fun hne he => absurd he hne⟩
  · exact ⟨fun _ => rfl, nofun, fun hne he => absurd he hne⟩
  · exact ⟨fun _ => rfl, nofun, fun hne he => absurd he hne⟩
  · have hwin := consumeByte_win hr ht
    rw [consumedByte_byte d hr.notHalted, seesBoundary_byte d hr.notHalted]
    refine ⟨fun _ => hwin, nofun, fun hne he => .inr ?_⟩
    by_contra hb
    exact syncObserve_ne_nil hne (Bool.eq_false_iff.mpr hb) (hwin ▸ he)

/-- Settles O33, by the cases of a step: only a byte fed in COLLECTING writes the buffer, at its own offset. -/
theorem bufferFrame : Obligations.BufferFrame := by
  intro i s t hi h
  rcases exec_cases h with
    ⟨hreset, -⟩ | ⟨-, -, hh, rfl⟩ | ⟨-, rfl, rfl⟩ | ⟨-, rfl, rfl⟩ | ⟨-, rfl, rfl⟩ | ⟨hr, d, rfl, ht⟩
  · exact absurd hreset hi
  · rw [fedOffset_of_not_collecting i (by simp [hh])]
    exact ⟨fun _ _ => rfl, nofun⟩
  · exact ⟨fun _ _ => rfl, nofun⟩
  · exact ⟨fun _ _ => rfl, nofun⟩
  · exact ⟨fun _ _ => rfl, nofun⟩
  · have hbuf := consumeByte_buf hr ht
    cases hfed : fedOffset (.byte d) s with
    | none =>
      rw [hfed] at hbuf
      exact ⟨fun a _ => by rw [hbuf]; rfl, nofun⟩
    | some a =>
      rw [hfed] at hbuf
      refine ⟨fun b hb => ?_, ?_⟩
      · rw [hbuf]
        exact Memory.read_write_other _ d fun e => hb (e ▸ rfl)
      · rintro _ _ ⟨⟩ ⟨⟩
        rw [hbuf]
        exact Memory.read_write_same _ a d

/-- Settles O34: the ports say which words consume a byte; and the data bits are read by BYTE only, which a block that
does not consume ignores. -/
theorem byteIsConsumedOnlyWhenReady : Obligations.ByteIsConsumedOnlyWhenReady := by
  have hiff : ∀ (s : State) (w : Cmd),
      consumes s w = true ↔ decode w = .byte (cmdData w) ∧ s.fsm ≠ Fsm.halted := by
    intro s w
    obtain ⟨-, -, -, hbyte, -⟩ := decodeFollowsPortPriority w
    rw [hbyte]
    simp only [consumes, inReady, Bool.and_eq_true, decide_eq_true_eq, Bool.not_eq_true']
    tauto
  refine ⟨hiff, fun s w v hc hwv => ?_⟩
  obtain ⟨hrst, hstop, herr, hvalid⟩ := ports_eq_of_shift_eq hwv
  by_cases hbyte : decode w = .byte (cmdData w)
  · have hh : s.fsm = Fsm.halted := by
      by_contra hne
      rw [(hiff s w).mpr ⟨hbyte, hne⟩] at hc
      cases hc
    obtain ⟨-, -, -, hport, -⟩ := decodeFollowsPortPriority w
    obtain ⟨hr, hs, he, hv, -⟩ := (hport _).mp hbyte
    have hbyte' : decode v = .byte (cmdData v) := by
      rw [decode_eq_by_ports, ← hrst, ← hstop, ← herr, ← hvalid, hr, hs, he, hv]
      rfl
    rw [hbyte, hbyte', exec_byte_halted_operand hh]
  · have hv : decode w = decode v := by
      rw [decode_eq_by_ports] at hbyte ⊢
      rw [decode_eq_by_ports v, ← hrst, ← hstop, ← herr, ← hvalid]
      split_ifs at hbyte ⊢ with h1 h2 h3 h4
      · rfl
      · rfl
      · rfl
      · exact absurd rfl hbyte
      · rfl
    rw [hv]

end

section
/-! SUPPORT. The Sync Detector on a whole stream: what one byte does to a window of at most 3 bytes, streams without a
hit, and the marker (40_sync_detector.md sections 1 and 2). -/

namespace Sys2Proof.Machine

open Sys2Proof

/-- `FE` is the marker's last byte, so any other byte of the alphabet does not hit: it is appended, and the newest three
are kept (rule R83). -/
theorem syncObserveWith_keep {alphabet w : List Byte} {d : Byte} (hd : d ∈ alphabet) (hw : w.length ≤ 3)
    (hne : d ≠ 0xFE#8) : syncObserveWith alphabet Config.marker w d = (false, (w ++ [d]).rtake 3) := by
  match w, hw with
  | [], _ => simp [syncObserveWith, hd, List.rtake]
  | [_], _ => simp [syncObserveWith, hd, List.rtake]
  | [_, _], _ => simp [syncObserveWith, hd, List.rtake]
  | [_, _, _], _ => simp [syncObserveWith, hd, List.rtake, marker_eq_le32, le32_eq_iff, hne]

/-- The marker's last byte, after the three before it. -/
theorem syncObserveWith_marker {alphabet : List Byte} (hd : 0xFE#8 ∈ alphabet) :
    syncObserveWith alphabet Config.marker [0xEF#8, 0xFF#8, 0xEF#8] 0xFE#8 = (true, []) := by
  simp [syncObserveWith, hd, marker_eq_le32]

/-- Keeping three bytes twice is keeping three bytes once. -/
theorem rtake_rtake_append (w : List Byte) (es : List Byte) : (w.rtake 3 ++ es).rtake 3 = (w ++ es).rtake 3 := by
  rw [List.rtake_eq_reverse_take_reverse, List.rtake_eq_reverse_take_reverse,
    List.rtake_eq_reverse_take_reverse]
  simp [List.take_append, List.take_take]

/-- The newest three of any bytes and the marker's first three are the latter. -/
theorem rtake_marker_start (w : List Byte) : (w ++ [0xEF#8, 0xFF#8, 0xEF#8]).rtake 3 = [0xEF#8, 0xFF#8, 0xEF#8] := by
  simp [List.rtake]

theorem length_rtake_le (w : List Byte) : (w.rtake 3).length ≤ 3 := by
  simp [List.rtake]
  omega

/-- The marker's four bytes from any window: the first three are not `FE`, so they are kept, and push everything else
out of the window. -/
theorem syncObserveWith_markerBytes {alphabet w : List Byte} (hall : ∀ b ∈ Config.markerBytes, b ∈ alphabet)
    (hw : w.length ≤ 3) :
    ∃ w1 w2, syncObserveWith alphabet Config.marker w 0xEF#8 = (false, w1) ∧
      syncObserveWith alphabet Config.marker w1 0xFF#8 = (false, w2) ∧
      syncObserveWith alphabet Config.marker w2 0xEF#8 = (false, [0xEF#8, 0xFF#8, 0xEF#8]) ∧
      syncObserveWith alphabet Config.marker [0xEF#8, 0xFF#8, 0xEF#8] 0xFE#8 = (true, []) := by
  have hEF : 0xEF#8 ∈ alphabet := hall _ (by decide)
  have hFF : 0xFF#8 ∈ alphabet := hall _ (by decide)
  have h2 := syncObserveWith_keep hFF (length_rtake_le (w ++ [0xEF#8])) (by decide)
  have h3 := syncObserveWith_keep hEF (length_rtake_le (w ++ [0xEF#8] ++ [0xFF#8])) (by decide)
  have hwin : (w ++ [0xEF#8] ++ [0xFF#8] ++ [0xEF#8]).rtake 3 = [0xEF#8, 0xFF#8, 0xEF#8] := by
    simpa using rtake_marker_start w
  rw [rtake_rtake_append] at h2 h3
  rw [hwin] at h3
  exact ⟨_, _, syncObserveWith_keep hEF hw (by decide), h2, h3, syncObserveWith_marker (hall _ (by decide))⟩

/-- Non-qualifying bytes leave the window, without a hit (rule R82). -/
theorem syncObserveAll_of_not_qualifying (w : List Byte) {g : List Byte} (h : ∀ b ∈ g, qualifying b = false) :
    syncObserveAll w g = (List.replicate g.length false, w) := by
  induction g with
  | nil => rfl
  | cons b g ih =>
    have hb : qualifying b = false := h b (by simp)
    rw [syncObserveAll_cons, syncObserve_of_not_qualifying w hb, ih fun c hc => h c (by simp [hc])]
    rfl

/-- A byte without a hit, and non-qualifying bytes after it. -/
theorem syncObserveAll_byte_gap {w w' g : List Byte} {d : Byte} (hd : syncObserve w d = (false, w'))
    (hg : ∀ b ∈ g, qualifying b = false) :
    syncObserveAll w (d :: g) = (List.replicate (g.length + 1) false, w') := by
  rw [syncObserveAll_cons, hd, syncObserveAll_of_not_qualifying w' hg, List.replicate_succ]

/-- A short window never hits (rule R83). -/
theorem syncObserve_short_no_hit {w : List Byte} (d : Byte) (hw : w.length < 3) : (syncObserve w d).1 = false := by
  cases hq : qualifying d with
  | false => rw [syncObserve_of_not_qualifying w hq]
  | true => rw [syncObserve_short hq hw]

/-- Fewer than 4 bytes, counting those in the window and the qualifying ones of the stream, never hit. -/
theorem syncObserveAll_no_hit {w ds : List Byte} (h : w.length + (ds.filter qualifying).length < 4) :
    ∀ b ∈ (syncObserveAll w ds).1, b = false := by
  induction ds generalizing w with
  | nil => simp
  | cons d ds ih =>
    intro b hb
    rw [syncObserveAll_cons] at hb
    cases hq : qualifying d with
    | false =>
      rw [List.filter_cons_of_neg (by simp [hq])] at h
      rw [syncObserve_of_not_qualifying w hq] at hb
      rcases List.mem_cons.mp hb with rfl | hb
      · rfl
      · exact ih h b hb
    | true =>
      rw [List.filter_cons_of_pos hq, List.length_cons] at h
      rw [syncObserve_short hq (by omega)] at hb
      rcases List.mem_cons.mp hb with rfl | hb
      · rfl
      · refine ih ?_ b hb
        rw [List.length_append, List.length_singleton]
        omega

/-- The stateful detector's memory: the window is the end of the qualifying history, and it lacks bytes only after
reset or after a marker (rules R83, R86). -/
def WindowOf (history w : List Byte) : Prop :=
  w.length ≤ 3 ∧ ∃ before, history = before ++ w ∧ (w.length = 3 ∨ before = [] ∨ Config.markerBytes <:+ before)

theorem windowOf_nil : WindowOf [] [] := ⟨by simp, [], rfl, .inr (.inl rfl)⟩

/-- The marker has no border: a copy of it cannot begin inside another (40_sync_detector.md section 2). -/
theorem markerBytes_no_border (k : Nat) (h0 : 0 < k) (h4 : k < 4) :
    Config.markerBytes.take k ≠ Config.markerBytes.drop (4 - k) := by
  interval_cases k <;> decide

/-- A list as long as the end of another ends it only when it is that end. -/
theorem suffix_append_iff_eq {l before es : List Byte} (h : l.length = es.length) : l <:+ before ++ es ↔ l = es := by
  refine ⟨fun hs => ?_, fun he => he ▸ List.suffix_append _ _⟩
  exact (List.suffix_of_suffix_length_le hs (List.suffix_append _ _) h.le).eq_of_length h

/-- After a marker the next 1 to 3 bytes end no marker: it would begin inside the first. -/
theorem not_marker_suffix_after_marker {before es : List Byte} (hm : Config.markerBytes <:+ before)
    (h0 : 0 < es.length) (h3 : es.length ≤ 3) : ¬Config.markerBytes <:+ before ++ es := by
  obtain ⟨pre, rfl⟩ := hm
  have hlen : Config.markerBytes.length = 4 := rfl
  have hsplit : pre ++ Config.markerBytes ++ es =
      (pre ++ Config.markerBytes.take es.length) ++ (Config.markerBytes.drop es.length ++ es) := by
    conv_lhs => rw [← List.take_append_drop es.length Config.markerBytes]
    simp only [List.append_assoc]
  rw [hsplit, suffix_append_iff_eq (by rw [List.length_append, List.length_drop, hlen]; omega)]
  intro he
  have hborder : Config.markerBytes.take (4 - es.length) = Config.markerBytes.drop es.length := by
    conv_lhs => rw [he]
    exact List.take_left' (by rw [List.length_drop, hlen])
  refine markerBytes_no_border (4 - es.length) (by omega) (by omega) (hborder.trans ?_)
  congr 1
  omega

/-- One byte moves the window along the history, and hits exactly when the history then ends with the marker. -/
theorem windowOf_observe {history w : List Byte} {d : Byte} (h : WindowOf history w) (hq : qualifying d = true) :
    WindowOf (history ++ [d]) (syncObserve w d).2 ∧
      ((syncObserve w d).1 = true ↔ Config.markerBytes <:+ history ++ [d]) := by
  obtain ⟨hw, before, rfl, hb⟩ := h
  by_cases h3 : w.length = 3
  · obtain ⟨w0, w1, w2, rfl⟩ := List.length_eq_three.mp h3
    have hiff : Config.markerBytes <:+ before ++ [w0, w1, w2] ++ [d] ↔
        w0 = 0xEF#8 ∧ w1 = 0xFF#8 ∧ w2 = 0xEF#8 ∧ d = 0xFE#8 := by
      rw [List.append_assoc, suffix_append_iff_eq (l := Config.markerBytes) (es := [w0, w1, w2] ++ [d]) rfl, eq_comm]
      simp [Config.markerBytes]
    rw [syncObserve_full hq, hiff]
    split <;> rename_i hm
    · exact ⟨⟨by simp, _, (List.append_nil _).symm, .inr (.inr (hiff.mpr hm))⟩, by simp [hm]⟩
    · exact ⟨⟨by simp, before ++ [w0], by simp, .inl rfl⟩, by simp [hm]⟩
  · have hshort : w.length < 3 := by omega
    have hb' := hb.resolve_left h3
    rw [syncObserve_short hq hshort]
    refine ⟨⟨by simp; omega, before, by simp, .inr hb'⟩, by simp, fun hs => ?_⟩
    rw [List.append_assoc] at hs
    rcases hb' with rfl | hm
    · have hlen := hs.length_le
      simp [Config.markerBytes] at hlen
      omega
    · exact absurd hs (not_marker_suffix_after_marker hm (by simp) (by simp; omega))

/-- A stream moves the window along its qualifying bytes. -/
theorem windowOf_observeAll {history w : List Byte} (ds : List Byte) (h : WindowOf history w) :
    WindowOf (history ++ ds.filter qualifying) (syncObserveAll w ds).2 := by
  induction ds generalizing history w with
  | nil => simpa using h
  | cons d ds ih =>
    rw [syncObserveAll_cons]
    cases hq : qualifying d with
    | false =>
      rw [List.filter_cons_of_neg (by simp [hq]), syncObserve_of_not_qualifying w hq]
      exact ih h
    | true =>
      rw [List.filter_cons_of_pos hq, ← List.singleton_append, ← List.append_assoc]
      exact ih (windowOf_observe h hq).1

end Sys2Proof.Machine
end

section
/-! The statements of 40_sync_detector.md. -/

open Sys2Proof Sys2Proof.Machine

/-- Settles O37: the compared value is the concatenation by definition; a hit needs a qualifying byte, and then the
three stored bytes decide. -/
theorem fullWindowHitsOnTheMarkerOnly : Obligations.FullWindowHitsOnTheMarkerOnly := by
  intro w0 w1 w2 d
  refine ⟨rfl, ?_⟩
  cases hq : qualifying d with
  | false =>
    have hne : d ≠ 0xFE#8 := by
      rintro rfl
      cases hq
    simp [syncObserve_of_not_qualifying _ hq, hne]
  | true =>
    rw [syncObserve_full hq]
    split <;> rename_i hm <;> simp [hm]

/-- Settles O38: a short window is extended; a full one hits on the marker and keeps its newest bytes otherwise. -/
theorem windowAfterObserve : Obligations.WindowAfterObserve := by
  intro w d hw hq
  refine ⟨syncObserve_short hq, fun h3 hm => ?_, fun h3 hm => ?_⟩ <;>
    obtain ⟨w0, w1, w2, rfl⟩ := List.length_eq_three.mp h3 <;>
    rw [syncObserve_full hq]
  · exact if_pos (by simpa [Config.markerBytes] using hm)
  · exact if_neg (by simpa [Config.markerBytes] using hm)

/-- Settles O39: a short window never hits, and a stream from the empty one grows it by its qualifying bytes only. -/
theorem noHitBeforeFourQualifyingBytes : Obligations.NoHitBeforeFourQualifyingBytes :=
  ⟨fun _ d hw => syncObserve_short_no_hit d hw, fun _ h => syncObserveAll_no_hit (by simpa using h)⟩

/-- Settles O43: the four windows of `syncObserveWith_markerBytes`. -/
theorem markerIsFoundWithAnyAlphabet : Obligations.MarkerIsFoundWithAnyAlphabet := by
  intro alphabet w hall hw
  obtain ⟨w1, w2, h1, h2, h3, h4⟩ := syncObserveWith_markerBytes hall hw
  simp [h1, h2, h3, h4]

/-- Settles O40: no proper part of the marker is its own end, and with non-qualifying bytes between, the four bytes
meet the windows of `syncObserveWith_markerBytes`. -/
theorem markerIsFoundFromAnyWindow : Obligations.MarkerIsFoundFromAnyWindow := by
  refine ⟨markerBytes_no_border, fun w g1 g2 g3 hw hg => ?_⟩
  obtain ⟨w1, w2, h1, h2, h3, h4⟩ := syncObserveWith_markerBytes (alphabet := Config.syncAlphabet) (by decide) hw
  have hg1 := syncObserveAll_byte_gap (g := g1) h1 fun b hb => hg b (by simp [hb])
  have hg2 := syncObserveAll_byte_gap (g := g2) h2 fun b hb => hg b (by simp [hb])
  have hg3 := syncObserveAll_byte_gap (g := g3) h3 fun b hb => hg b (by simp [hb])
  have hstream : [0xEF#8] ++ g1 ++ [0xFF#8] ++ g2 ++ [0xEF#8] ++ g3 ++ [0xFE#8] =
      0xEF#8 :: g1 ++ (0xFF#8 :: g2) ++ (0xEF#8 :: g3) ++ [0xFE#8] := by simp
  have hlen : g1.length + g2.length + g3.length + 3 = g1.length + 1 + (g2.length + 1) + (g3.length + 1) := by omega
  simp only [hstream, syncObserveAll_append, hg1, hg2, hg3, syncObserveAll_cons, syncObserve, h4, syncObserveAll_nil,
    hlen, List.replicate_append_replicate]

/-- Settles O41, by induction on the stream: a non-qualifying byte leaves the window and does not hit, and the deleted
stream has the same bytes otherwise. -/
theorem nonQualifyingBytesDropOut : Obligations.NonQualifyingBytesDropOut := by
  intro w ds
  induction ds generalizing w with
  | nil => simp
  | cons d ds ih =>
    cases hq : qualifying d with
    | false =>
      obtain ⟨hhits, hwin, hno⟩ := ih w
      rw [List.filter_cons_of_neg (by simp [hq]), syncObserveAll_cons, syncObserve_of_not_qualifying w hq,
        List.zip_cons_cons, List.filter_cons_of_neg (by simp [hq])]
      refine ⟨hhits, hwin, fun p hp hp' => ?_⟩
      rcases List.mem_cons.mp hp with rfl | hp
      · rfl
      · exact hno p hp hp'
    | true =>
      obtain ⟨hhits, hwin, hno⟩ := ih (syncObserve w d).2
      rw [List.filter_cons_of_pos hq, syncObserveAll_cons, syncObserveAll_cons, List.zip_cons_cons,
        List.filter_cons_of_pos (by exact hq), List.map_cons, hhits]
      refine ⟨rfl, hwin, fun p hp hp' => ?_⟩
      rcases List.mem_cons.mp hp with rfl | hp
      · rw [hq] at hp'
        cases hp'
      · exact hno p hp hp'

/-- Settles O42: the window after a stream is the end of its qualifying history (`WindowOf`), and one more byte hits
exactly when the history then ends with the marker. -/
theorem detectorEqualsTheStatelessPredicate : Obligations.DetectorEqualsTheStatelessPredicate := by
  intro ds d
  have hw : WindowOf (ds.filter qualifying) (syncObserveAll [] ds).2 := windowOf_observeAll ds windowOf_nil
  cases hq : qualifying d with
  | false => simp [syncObserve_of_not_qualifying _ hq]
  | true =>
    obtain ⟨-, hhit⟩ := windowOf_observe hw hq
    simpa [hq] using hhit

end

section
/-! SUPPORT. CRC-16/Modbus as a linear, injective update (rule R107), and the packet's crc field (rules R110, R111). -/

namespace Sys2Proof.Machine

open Sys2Proof

theorem xor_xor_xor_cancel (a b p : Half) : (a ^^^ p) ^^^ (b ^^^ p) = a ^^^ b := by
  have hac : (a ^^^ p) ^^^ (b ^^^ p) = (a ^^^ b) ^^^ (p ^^^ p) := by ac_rfl
  rw [hac, BitVec.xor_self, BitVec.xor_zero]

/-- One repetition of rule R107 is linear in the register. -/
theorem crcBit_xor (c e : Half) : crcBit (c ^^^ e) = crcBit c ^^^ crcBit e := by
  unfold crcBit
  rw [BitVec.getLsbD_xor, BitVec.ushiftRight_xor_distrib]
  cases c.getLsbD 0 <;> cases e.getLsbD 0 <;> simp only [Bool.xor_true, Bool.xor_false, Bool.not_true, Bool.not_false,
    if_true, if_false, Bool.false_eq_true]
  case false.true => ac_rfl
  case true.false => ac_rfl
  case true.true => exact (xor_xor_xor_cancel _ _ _).symm

theorem crcBits_xor (n : Nat) (c e : Half) : crcBits n (c ^^^ e) = crcBits n c ^^^ crcBits n e := by
  induction n generalizing c e with
  | zero => rfl
  | succ n ih => rw [crcBits, crcBits, crcBits, crcBit_xor, ih]

/-- While the low bits are 0 the repetitions only shift. -/
theorem crcBits_of_low_zero {n : Nat} {c : Half} (h : ∀ k, k < n → c.getLsbD k = false) : crcBits n c = c >>> n := by
  induction n generalizing c with
  | zero => simp [crcBits]
  | succ n ih =>
    have h0 : crcBit c = c >>> 1 := by
      rw [crcBit, h 0 (by omega)]
      rfl
    have hlow : ∀ k, k < n → (c >>> 1).getLsbD k = false := fun k hk => by
      rw [BitVec.getLsbD_ushiftRight]
      exact h (1 + k) (by omega)
    rw [crcBits, h0, ih hlow, ← BitVec.shiftRight_add, Nat.add_comm]

/-- A register is its masked and its unmasked bits. -/
theorem and_xor_and_not (x m : Half) : (x &&& ~~~m) ^^^ (x &&& m) = x := by
  apply BitVec.eq_of_getLsbD_eq
  intro k hk
  simp only [BitVec.getLsbD_xor, BitVec.getLsbD_and, BitVec.getLsbD_not, hk, decide_true, Bool.true_and]
  cases x.getLsbD k <;> cases m.getLsbD k <;> rfl

/-- Eight repetitions shift the high byte down, and the low byte alone decides the rest. -/
theorem crcBits_eight (x : Half) : crcBits 8 x = (x >>> 8) ^^^ crcBits 8 (x &&& 0x00FF#16) := by
  have hlow : ∀ k, k < 8 → (x &&& ~~~0x00FF#16).getLsbD k = false := fun k hk => by
    rw [BitVec.getLsbD_and]
    interval_cases k <;> simp
  have hlo0 : (x &&& 0x00FF#16) >>> 8 = 0#16 := by
    rw [BitVec.ushiftRight_and_distrib]
    exact BitVec.and_zero
  have hhi : (x &&& ~~~0x00FF#16) >>> 8 = x >>> 8 := by
    conv_rhs => rw [← and_xor_and_not x 0x00FF#16, BitVec.ushiftRight_xor_distrib, hlo0, BitVec.xor_zero]
  conv_lhs => rw [← and_xor_and_not x 0x00FF#16, crcBits_xor, crcBits_of_low_zero hlow, hhi]

/-- The low byte of a register. -/
theorem and_low_byte (x : Half) : x &&& 0x00FF#16 = (x.setWidth 8).setWidth 16 := by
  apply BitVec.eq_of_toNat_eq
  have hx := Nat.and_two_pow_sub_one_eq_mod x.toNat 8
  have hlt : x.toNat % 256 < 65536 := by omega
  simpa [Nat.mod_eq_of_lt hlt] using hx

/-- A byte does not reach the register's high half. -/
theorem xor_byte_shift (c : Half) (b : Byte) : (c ^^^ b.setWidth 16) >>> 8 = c >>> 8 := by
  have hb : b.setWidth 16 >>> 8 = 0#16 := by
    apply BitVec.eq_of_toNat_eq
    have := b.isLt
    simp only [BitVec.toNat_ushiftRight, BitVec.toNat_setWidth, Nat.shiftRight_eq_div_pow, BitVec.toNat_ofNat]
    omega
  rw [BitVec.ushiftRight_xor_distrib, hb, BitVec.xor_zero]

/-- The printed table is the update of register 0 by its index (rule R109). -/
theorem crcTable_getElem? (b : Byte) : crcTable[b.toNat]? = some (crcByte 0x0000#16 b) := by
  revert b
  decide +kernel

/-- The table-driven update is the bit-serial one (rule R109). -/
theorem crcByteByTable_eq_crcByte (c : Half) (b : Byte) : crcByteByTable c b = crcByte c b := by
  have hentry : ∀ e : Byte, crcTable.getD (e.setWidth 16).toNat 0#16 = crcBits 8 (e.setWidth 16) := fun e => by
    have hidx : (e.setWidth 16).toNat = e.toNat := by
      have := e.isLt
      rw [BitVec.toNat_setWidth]
      omega
    rw [List.getD_eq_getElem?_getD, hidx, crcTable_getElem?, crcByte, BitVec.zero_xor]
    rfl
  rw [crcByte, crcBits_eight, crcByteByTable, and_low_byte, hentry, xor_byte_shift]

/-- The feedback bit can be read off the result: the polynomial has bit 15, a shifted register has not. -/
theorem crcBit_msb (c : Half) : (crcBit c).getLsbD 15 = c.getLsbD 0 := by
  have hshift : (c >>> 1).getLsbD 15 = false := by
    rw [BitVec.getLsbD_ushiftRight]
    exact BitVec.getLsbD_of_ge c 16 (by decide)
  have hpoly : Config.crcPoly.getLsbD 15 = true := by decide
  unfold crcBit
  cases c.getLsbD 0 <;> simp only [if_true, if_false, Bool.false_eq_true, BitVec.getLsbD_xor, hshift, hpoly]
  rfl

/-- No two registers have the same update. -/
theorem crcBit_injective : Function.Injective crcBit := by
  intro c e h
  have h0 : c.getLsbD 0 = e.getLsbD 0 := by rw [← crcBit_msb, ← crcBit_msb, h]
  have hs : c >>> 1 = e >>> 1 := by
    unfold crcBit at h
    rw [h0] at h
    cases hb : e.getLsbD 0 with
    | true =>
      rw [hb] at h
      exact (BitVec.xor_left_inj _).mp h
    | false =>
      rw [hb] at h
      exact h
  apply BitVec.eq_of_getLsbD_eq
  intro k hk
  cases k with
  | zero => exact h0
  | succ k => simpa [Nat.add_comm] using congrArg (fun x => x.getLsbD k) hs

theorem crcBits_injective (n : Nat) : Function.Injective (crcBits n) := by
  induction n with
  | zero => exact fun _ _ h => h
  | succ n ih => exact fun _ _ h => crcBit_injective (ih h)

/-- The update by a byte loses nothing of the register. -/
theorem crcByte_left_injective (b : Byte) : Function.Injective fun c => crcByte c b :=
  fun _ _ h => (BitVec.xor_left_inj _).mp (crcBits_injective 8 h)

/-- The update tells the bytes apart. -/
theorem crcByte_right_injective (c : Half) : Function.Injective (crcByte c) := by
  intro b e h
  have hw : b.setWidth 16 = e.setWidth 16 := (BitVec.xor_right_inj _).mp (crcBits_injective 8 h)
  have hn := congrArg BitVec.toNat hw
  have := b.isLt
  have := e.isLt
  rw [BitVec.toNat_setWidth, BitVec.toNat_setWidth] at hn
  exact BitVec.eq_of_toNat_eq (by omega)

theorem foldl_crcByte_injective (bs : List Byte) : Function.Injective fun c => bs.foldl crcByte c := by
  induction bs with
  | nil => exact fun _ _ h => h
  | cons b bs ih => exact fun _ _ h => crcByte_left_injective b (ih h)

/-- Two sequences that differ in one byte have different CRCs (rule R108). -/
theorem crc16_set_ne {bs : List Byte} {i : Nat} {b e : Byte} (hb : bs[i]? = some b) (hne : e ≠ b) :
    crc16 (bs.set i e) ≠ crc16 bs := by
  obtain ⟨hi, rfl⟩ := List.getElem?_eq_some_iff.mp hb
  intro h
  have hbs : bs = bs.take i ++ bs[i] :: bs.drop (i + 1) := by simp
  rw [crc16_eq_foldl, crc16_eq_foldl, List.set_eq_take_append_cons_drop, if_pos hi] at h
  conv_rhs at h => rw [hbs]
  rw [List.foldl_append, List.foldl_append, List.foldl_cons, List.foldl_cons] at h
  exact hne (crcByte_right_injective _ (foldl_crcByte_injective _ h))

/-- Validation compares the checksum of the payload with the bytes 2 and 3 (rules R110, R111). -/
theorem packetOk_iff {p : List Byte} {b2 b3 : Byte} (h2 : p[2]? = some b2) (h3 : p[3]? = some b3) :
    packetOk p = true ↔ crc16 (crcPayload p) = b3 ++ b2 := by
  have hcrc : (fieldsOf p).crc = b3 ++ b2 := memRead_two h2 h3
  rw [packetOk, validate, hcrc, beq_iff_eq]

/-- The payload of a packet of 60 bytes is what follows the first four (rule R110). -/
theorem crcPayload_of_length {p : List Byte} (h : p.length = 60) : crcPayload p = p.drop 4 := by
  rw [crcPayload, List.take_of_length_le (by simp [h, Config.pktSize])]
  rfl

/-- A packet of 60 bytes that validates does not when one of its bytes 2 to 59 is another. -/
theorem packetOk_set_false {p : List Byte} {i : Nat} {b e : Byte} (hp : p.length = 60) (hok : packetOk p = true)
    (hi : 2 ≤ i) (hb : p[i]? = some b) (hne : e ≠ b) : packetOk (p.set i e) = false := by
  obtain ⟨b2, h2⟩ : ∃ b2, p[2]? = some b2 := ⟨_, List.getElem?_eq_getElem (by omega)⟩
  obtain ⟨b3, h3⟩ : ∃ b3, p[3]? = some b3 := ⟨_, List.getElem?_eq_getElem (by omega)⟩
  have hcrc := (packetOk_iff h2 h3).mp hok
  have hlen : (p.set i e).length = 60 := by rw [List.length_set, hp]
  rw [crcPayload_of_length hp] at hcrc
  rw [Bool.eq_false_iff, Ne]
  rcases Nat.lt_or_ge i 4 with h4 | h4
  · have hpay : crcPayload (p.set i e) = p.drop 4 := by
      rw [crcPayload_of_length hlen, List.drop_set_of_lt h4]
    obtain rfl | rfl : i = 2 ∨ i = 3 := by omega
    · have h2' : (p.set 2 e)[2]? = some e := List.getElem?_set_self (by omega)
      have h3' : (p.set 2 e)[3]? = some b3 := by rw [List.getElem?_set_ne (by decide), h3]
      rw [packetOk_iff h2' h3', hpay, hcrc, append_byte_eq_iff]
      rintro ⟨-, rfl⟩
      exact hne (Option.some.inj (h2.symm.trans hb))
    · have h2' : (p.set 3 e)[2]? = some b2 := by rw [List.getElem?_set_ne (by decide), h2]
      have h3' : (p.set 3 e)[3]? = some e := List.getElem?_set_self (by omega)
      rw [packetOk_iff h2' h3', hpay, hcrc, append_byte_eq_iff]
      rintro ⟨rfl, -⟩
      exact hne (Option.some.inj (h3.symm.trans hb))
  · have h2' : (p.set i e)[2]? = some b2 := by rw [List.getElem?_set_ne (by omega), h2]
    have h3' : (p.set i e)[3]? = some b3 := by rw [List.getElem?_set_ne (by omega), h3]
    have hb4 : (p.drop 4)[i - 4]? = some b := by
      rw [List.getElem?_drop, ← hb]
      congr 1
      omega
    rw [packetOk_iff h2' h3', crcPayload_of_length hlen, List.drop_set, if_neg (by omega), ← hcrc]
    exact crc16_set_ne hb4 hne

end Sys2Proof.Machine
end

section
/-! The statements of 42_frame_decoder.md and 43_crc_validator.md. -/

open Sys2Proof Sys2Proof.Machine

/-- Settles O45: a packet of 60 bytes decodes, and the slices of its record are its fields and its bytes. -/
theorem decodedFrameIsTheRecordsSlices : Obligations.DecodedFrameIsTheRecordsSlices := by
  intro p hp
  refine ⟨by rw [decodeFrame_of_length hp, recordFields_packRecord], List.ext_getElem? fun k => ?_⟩
  by_cases hk : k < 60
  · rw [recordByte_packRecord hp hk, recordBytes, List.getElem?_map, List.getElem?_range (by exact hk)]
    rfl
  · rw [List.getElem?_eq_none (by simp [recordBytes, Config.pktSize]; omega), List.getElem?_eq_none (by omega)]

/-- Settles O47: neither the payload nor the crc field begins before byte 2. -/
theorem syncEchoIsNotChecked : Obligations.SyncEchoIsNotChecked := fun _ _ _ _ _ => rfl

/-- Settles O48: `packetOk_iff` for a packet written out. -/
theorem validateComparesThePayloadCrc : Obligations.ValidateComparesThePayloadCrc := by
  intro b0 b1 b2 b3 payload hlen
  rw [packetOk_iff rfl rfl, crcPayload_of_length (by simp [hlen])]
  rfl

/-- Settles O49: four checksums, computed. -/
theorem crcCornerCases : Obligations.CrcCornerCases := by
  unfold Obligations.CrcCornerCases
  decide +kernel

/-- Settles O50: the table's 256 entries are computed; that the update by table is the bit-serial one follows from the
update's linearity. -/
theorem tableDrivenCrcAgrees : Obligations.TableDrivenCrcAgrees := by
  refine ⟨crcTable_getElem?, crcByteByTable_eq_crcByte, fun bs => ?_⟩
  have hfun : crcByteByTable = crcByte := funext fun c => funext fun b => crcByteByTable_eq_crcByte c b
  rw [crc16ByTable, crc16, hfun]

/-- Settles O51: a flipped bit makes the byte another byte, and a changed byte changes exactly one side of the
comparison. -/
theorem singleBitErrorsAreDetected : Obligations.SingleBitErrorsAreDetected := by
  intro p i k b hp hok hi hb hk
  have hne : b ^^^ (1#8 <<< k) ≠ b := by
    intro h
    have hz : 1#8 <<< k = 0#8 := by
      refine (BitVec.xor_right_inj b).mp ?_
      rw [h, BitVec.xor_zero]
    interval_cases k <;> cases hz
  exact packetOk_set_false hp hok hi hb hne

end

section
/-! SUPPORT. The bytes of a value, read back from a packet (rules R48, R50, R70). -/

namespace Sys2Proof.Machine

open Sys2Proof

theorem append_u16Bytes (v : Half) : (v.extractLsb' 8 8 ++ v.extractLsb' 0 8 : Half) = v := by
  apply BitVec.eq_of_toNat_eq
  have := v.isLt
  rw [toNat_append_eq]
  simp only [BitVec.extractLsb'_toNat, Nat.shiftRight_eq_div_pow]
  omega

theorem le32_f32Bytes (v : Word) :
    le32 (v.extractLsb' 0 8) (v.extractLsb' 8 8) (v.extractLsb' 16 8) (v.extractLsb' 24 8) = v := by
  apply BitVec.eq_of_toNat_eq
  have := v.isLt
  rw [le32_toNat]
  simp only [BitVec.extractLsb'_toNat, Nat.shiftRight_eq_div_pow]
  omega

theorem getElem?_of_drop_eq {p l : List Byte} {o : Nat} (h : p.drop o = l) (k : Nat) : p[o + k]? = l[k]? := by
  rw [← h, List.getElem?_drop]

/-- A uint16 value whose bytes stand at the offset (rule R100). -/
theorem memRead_u16Bytes {p rest : List Byte} {o : Nat} {v : Half} (h : p.drop o = u16Bytes v ++ rest) :
    memRead p o 2 = v :=
  (memRead_two (getElem?_of_drop_eq h 0) (getElem?_of_drop_eq h 1)).trans (append_u16Bytes v)

/-- A float32 pattern whose bytes stand at the offset (rule R101). -/
theorem memRead_f32Bytes {p rest : List Byte} {o : Nat} {v : Word} (h : p.drop o = f32Bytes v ++ rest) :
    memRead p o 4 = v :=
  (memRead_four (getElem?_of_drop_eq h 0) (getElem?_of_drop_eq h 1) (getElem?_of_drop_eq h 2)
    (getElem?_of_drop_eq h 3)).trans (le32_f32Bytes v)

end Sys2Proof.Machine
end

section
/-! The statement of 30_encoding.md about the packet a stimulus program builds. -/

open Sys2Proof Sys2Proof.Machine

/-- Settles O54: the packet is written out, so each field's bytes stand at its offset; the crc field holds the
payload's checksum. -/
theorem stimulusPacketDecodesToItsFields : Obligations.StimulusPacketDecodesToItsFields := by
  intro se f0 f1 f2 f3 f4 f5 u0 u1 u2 u3 u4 u5 u6 u7 u8 u9 u10 u11 u12 u13 u14 u15 f u
  have hlen : (goodPacketBytes se f u).length = 60 := rfl
  have hok : packetOk (goodPacketBytes se f u) = true :=
    (packetOk_iff rfl rfl).mpr (append_u16Bytes (crc16 (payloadBytes f u))).symm
  refine ⟨hok, hlen, ?_⟩
  rw [decodeFrame_of_length hlen, fieldsOf, Except.ok.injEq, DecodedFrame.mk.injEq]
  exact ⟨
    memRead_u16Bytes rfl, memRead_u16Bytes rfl, memRead_f32Bytes rfl, memRead_f32Bytes rfl,
    memRead_f32Bytes rfl, memRead_f32Bytes rfl, memRead_f32Bytes rfl, memRead_f32Bytes rfl,
    memRead_u16Bytes rfl, memRead_u16Bytes rfl, memRead_u16Bytes rfl, memRead_u16Bytes rfl,
    memRead_u16Bytes rfl, memRead_u16Bytes rfl, memRead_u16Bytes rfl, memRead_u16Bytes rfl,
    memRead_u16Bytes rfl, memRead_u16Bytes rfl, memRead_u16Bytes rfl, memRead_u16Bytes rfl,
    memRead_u16Bytes rfl, memRead_u16Bytes rfl, memRead_u16Bytes rfl, memRead_u16Bytes rfl⟩

end

section
/-! SUPPORT. A run one step at a time: what each step adds to the observation (rules R116, R119), and the induction over
the steps of a completed run without RESET. -/

namespace Sys2Proof.Machine

open Sys2Proof

/-- What holds of the empty run and is handed on by every step but RESET holds of every completed run without RESET. -/
theorem run_induction {P : List Cmd → State → State → Prop} (hnil : ∀ s, P [] s s)
    (hstep : ∀ {w ws s u t}, cmdRst w = false → exec (decode w) s = .next u → P ws u t → P (w :: ws) s t) :
    ∀ {ws s t}, noReset ws → runCmds ws s = .next t → P ws s t := by
  intro ws
  induction ws with
  | nil =>
    intro s t _ h
    cases h
    exact hnil s
  | cons w ws ih =>
    intro s t hn h
    obtain ⟨u, hu, hrest⟩ := runCmds_cons_next h
    exact hstep (hn w (by simp)) hu (ih (fun v hv => hn v (by simp [hv])) hrest)

theorem countP_stepsOf_next (q : State × State → Bool) {w : Cmd} {s t : State} (ws : List Cmd)
    (h : exec (decode w) s = .next t) :
    (stepsOf (w :: ws) s).countP q = (q (s, t)).toNat + (stepsOf ws t).countP q := by
  rw [stepsOf_next ws h, List.countP_cons, Nat.add_comm]
  cases q (s, t) <;> rfl

theorem syncsOf_next {w : Cmd} {s t : State} (ws : List Cmd) (h : exec (decode w) s = .next t) :
    syncsOf (w :: ws) s = t.oSync.toNat + syncsOf ws t :=
  countP_stepsOf_next _ ws h

theorem abandonedOf_next {w : Cmd} {s t : State} (ws : List Cmd) (h : exec (decode w) s = .next t) :
    abandonedOf (w :: ws) s = (s.fsm == Fsm.collecting && t.oSync).toNat + abandonedOf ws t :=
  countP_stepsOf_next _ ws h

theorem mismatchedOf_next {w : Cmd} {s t : State} (ws : List Cmd) (h : exec (decode w) s = .next t) :
    mismatchedOf (w :: ws) s =
      (s.fsm == Fsm.collecting && t.fsm == Fsm.seekingSync && !t.oRecValid).toNat + mismatchedOf ws t :=
  countP_stepsOf_next _ ws h

theorem cutOffOf_next {w : Cmd} {s t : State} (ws : List Cmd) (h : exec (decode w) s = .next t) :
    cutOffOf (w :: ws) s = (s.fsm == Fsm.collecting && t.fsm == Fsm.halted).toNat + cutOffOf ws t :=
  countP_stepsOf_next _ ws h

theorem recordsOf_next {w : Cmd} {s t : State} (ws : List Cmd) (h : exec (decode w) s = .next t) :
    recordsOf (w :: ws) s = (if t.oRecValid then [t.oRec] else []) ++ recordsOf ws t := by
  rw [recordsOf, stepsOf_next ws h, List.filter_cons]
  cases t.oRecValid <;> simp [recordsOf]

theorem length_recordsOf_next {w : Cmd} {s t : State} (ws : List Cmd) (h : exec (decode w) s = .next t) :
    (recordsOf (w :: ws) s).length = t.oRecValid.toNat + (recordsOf ws t).length := by
  rw [recordsOf_next ws h, List.length_append]
  cases t.oRecValid <;> rfl

/-- No record of a run that stops at its first step. -/
theorem recordsOf_fault {w : Cmd} {s : State} {f : Fault} (ws : List Cmd) (h : exec (decode w) s = .fault f) :
    recordsOf (w :: ws) s = [] := by
  simp only [recordsOf, stepsOf, h, List.filter_nil, List.map_nil]

/-- The byte `in_ready` and `in_valid` hand over is the byte of the decoded operation (rules R34, R61). -/
theorem consumedByte_decode (w : Cmd) (s : State) :
    consumedByte (decode w) s = if consumes s w then some (cmdData w) else none := by
  obtain ⟨hiff, -⟩ := byteIsConsumedOnlyWhenReady
  by_cases hc : consumes s w = true
  · obtain ⟨hd, hh⟩ := (hiff s w).mp hc
    rw [if_pos hc, hd, consumedByte_byte _ hh]
  · rw [if_neg hc]
    by_cases hh : s.fsm = Fsm.halted
    · exact consumedByte_halted _ hh
    · cases hi : decode w with
      | byte d =>
        obtain ⟨-, -, -, hbyte, -⟩ := decodeFollowsPortPriority w
        obtain ⟨-, -, -, -, rfl⟩ := (hbyte d).mp hi
        exact absurd ((hiff s w).mpr ⟨hi, hh⟩) hc
      | reset => rfl
      | stop => rfl
      | srcerr => rfl
      | idle => rfl

theorem consumedBytes_cons_next {w : Cmd} {s t : State} (ws : List Cmd) (h : exec (decode w) s = .next t) :
    consumedBytes (w :: ws) s = (consumedByte (decode w) s).toList ++ consumedBytes ws t := by
  rw [consumedBytes_next ws h, consumedByte_decode]
  cases consumes s w <;> rfl

/-- A step without a consumed byte sees no boundary; a consumed byte is a boundary exactly when it hits (rule R129). -/
theorem seesBoundary_eq (i : Instr) (s : State) :
    seesBoundary i s = ((consumedByte i s).map fun d => (syncObserve s.win d).1).getD false := by
  by_cases hh : s.fsm = Fsm.halted
  · rw [seesBoundary_halted i hh, consumedByte_halted i hh]
    rfl
  · cases i with
    | byte d =>
      rw [seesBoundary_byte d hh, consumedByte_byte d hh]
      rfl
    | reset => rfl
    | stop => rfl
    | srcerr => rfl
    | idle => rfl

/-- A counter that grows by an event, as a sum (rules R28, R29). -/
theorem counter_add_toNat (c : Counter) (b : Bool) (n : Nat) :
    (if b then c + 1#32 else c) + BitVec.ofNat 32 n = c + BitVec.ofNat 32 (b.toNat + n) := by
  cases b with
  | false => simp
  | true => simp [BitVec.ofNat_add, BitVec.add_assoc]

theorem exec_clearStrobes (i : Instr) (s : State) : exec i (clearStrobes s) = exec i s := by
  cases i <;> rfl

end Sys2Proof.Machine
end

section
/-! The statements about completed runs without RESET: 44_record_output.md and 45_operations.md section 2. -/

open Sys2Proof Sys2Proof.Machine

/-- Settles O57, by induction on the run: a step shows its events in the counters and in the strobes. -/
theorem countersCountTheObservation : Obligations.CountersCountTheObservation := by
  intro ws s t hn h
  refine run_induction (P := fun ws s t =>
    t.successCount = s.successCount + BitVec.ofNat 32 (recordsOf ws s).length ∧
    t.syncCount = s.syncCount + BitVec.ofNat 32 (syncsOf ws s)) (fun s => ?_) ?_ hn h
  · simp [recordsOf, syncsOf]
  · rintro w ws s u t hrst hu ⟨hrec, hsync⟩
    have he := exec_showsEvents (decode_ne_reset_of_rst_low hrst) hu
    rw [length_recordsOf_next ws hu, syncsOf_next ws hu, hrec, hsync, he.successCount, he.syncCount, he.oRecValid,
      he.oSync, counter_add_toNat, counter_add_toNat]
    exact ⟨rfl, rfl⟩

/-- Settles O60, by induction on the run: a step observes the byte it consumes, if it does. -/
theorem detectorFollowsTheConsumedStream : Obligations.DetectorFollowsTheConsumedStream := by
  intro ws s t hn h
  refine run_induction (P := fun ws s t =>
    t.win = (syncObserveAll s.win (consumedBytes ws s)).2 ∧
    syncsOf ws s = (syncObserveAll s.win (consumedBytes ws s)).1.count true) (fun s => ⟨rfl, rfl⟩) ?_ hn h
  rintro w ws s u t hrst hu ⟨hwin, hsyncs⟩
  have hi := decode_ne_reset_of_rst_low hrst
  obtain ⟨hw, -, -⟩ := windowChangesByObserveOrReset _ s u hu
  have huwin := hw hi
  have hsync : u.oSync = _ := (exec_showsEvents hi hu).oSync
  rw [seesBoundary_eq] at hsync
  rw [consumedBytes_cons_next ws hu, syncsOf_next ws hu, hsyncs, hwin, hsync]
  cases hd : consumedByte (decode w) s with
  | none =>
    rw [hd] at huwin
    rw [huwin]
    simp
  | some d =>
    rw [hd] at huwin
    rw [huwin]
    simp only [Option.map_some, Option.getD_some, Option.toList_some, List.singleton_append, syncObserveAll_cons,
      List.count_cons, true_and]
    cases (syncObserve s.win d).1 <;> simp [Nat.add_comm]

/-- Settles O55, by induction on the IDLE words: each clears the strobes, which the next step clears anyway. -/
theorem idleStepsDoNotMatter : Obligations.IdleStepsDoNotMatter := by
  intro idles ws w
  induction idles with
  | nil => exact fun _ _ _ => rfl
  | cons v vs ih =>
    intro s hl hall
    have hv : exec (decode v) s = .next (clearStrobes s) := by
      rw [hall v (by simp)]
      exact idleClearsTheStrobesOnly s hl
    rw [List.cons_append, runCmds_next _ hv, ih _ (legal_clearStrobes hl) fun x hx => hall x (by simp [hx]),
      runCmds, runCmds, exec_clearStrobes]

end

section
/-! SUPPORT. A halted run (rule R139), the account of one step (rule R119), and the bytes a record needs
(70_reset_and_hazards.md sections 2 and 3) as a measure that no step lets grow faster than the consumed bytes. -/

namespace Sys2Proof.Machine

open Sys2Proof

/-- A halted state with its strobes cleared stays as it is, and shows nothing. -/
theorem run_halted_clear {ws : List Cmd} {s : State} (hl : Legal s) (hh : s.fsm = Fsm.halted) (hn : noReset ws)
    (hs : clearStrobes s = s) :
    runCmds ws s = .next s ∧ recordsOf ws s = [] ∧ syncsOf ws s = 0 ∧ consumedOf ws s = 0 := by
  induction ws with
  | nil => exact ⟨rfl, rfl, rfl, rfl⟩
  | cons w ws ih =>
    obtain ⟨hw, -, hc⟩ := haltedAbsorbsAllButReset s w hl hh (hn w (by simp))
    have hu : exec (decode w) s = .next s := hw.trans (congrArg _ hs)
    obtain ⟨hrun, hrec, hsync, hcons⟩ := ih fun v hv => hn v (by simp [hv])
    have hstrobe : s.oRecValid = false ∧ s.oSync = false := by
      rw [← hs]
      exact ⟨rfl, rfl⟩
    rw [runCmds_next _ hu, recordsOf_next _ hu, syncsOf_next _ hu, consumedOf_next _ hu, hrun, hrec, hsync, hcons, hc,
      hstrobe.1, hstrobe.2]
    exact ⟨rfl, rfl, rfl, rfl⟩

/-- The account of one step: the attempts open before it and the boundary it sees are the attempts it ends and those
open after it (rule R119). -/
theorem attempts_step {i : Instr} {s t : State} (hi : i ≠ .reset) (h : exec i s = .next t) :
    t.oSync.toNat + collectingNow s =
      t.oRecValid.toNat + (s.fsm == Fsm.collecting && t.oSync).toNat +
        (s.fsm == Fsm.collecting && t.fsm == Fsm.seekingSync && !t.oRecValid).toNat +
        (s.fsm == Fsm.collecting && t.fsm == Fsm.halted).toNat + collectingNow t := by
  rcases exec_cases h with
    ⟨hr, -⟩ | ⟨-, -, hh, rfl⟩ | ⟨hr, -, rfl⟩ | ⟨hr, -, rfl⟩ | ⟨hr, -, rfl⟩ | ⟨hr, d, -, ht⟩
  · exact absurd hr hi
  · simp [collectingNow, beq_eq_decide, hh]
  · by_cases hc : s.fsm = Fsm.collecting <;> simp [collectingNow, beq_eq_decide, hc]
  · by_cases hc : s.fsm = Fsm.collecting <;> simp [collectingNow, beq_eq_decide, hc]
  · by_cases hc : s.fsm = Fsm.collecting <;> simp [collectingNow, beq_eq_decide, hc]
  · rcases consumeByte_running hr ht with ⟨-, rfl⟩ | ⟨-, hf, rfl⟩ | ⟨-, hf, -, rfl⟩ | ⟨-, hf, -, rfl⟩
    · by_cases hc : s.fsm = Fsm.collecting <;> simp [collectingNow, beq_eq_decide, hc]
    · simp [collectingNow, beq_eq_decide, hf]
    · simp [collectingNow, beq_eq_decide, hf]
    · cases hp : packetOk (packetWith s.buf d) <;> simp [collectingNow, beq_eq_decide, hf, afterCompletion, hp]

/-- A run from HALTED cuts nothing off: it is no attempt's end. -/
theorem cutOffOf_halted {ws : List Cmd} {s t : State} (hn : noReset ws) (hh : s.fsm = Fsm.halted)
    (h : runCmds ws s = .next t) : cutOffOf ws s = 0 ∧ t.fsm = Fsm.halted := by
  revert hh
  refine run_induction (P := fun ws s t => s.fsm = Fsm.halted → cutOffOf ws s = 0 ∧ t.fsm = Fsm.halted)
    (fun s hh => ⟨rfl, hh⟩) ?_ hn h
  intro w ws s u t hrst hu ih hh
  obtain ⟨-, hkeep, -⟩ := transitionTable _ s u hu
  obtain ⟨huh, -⟩ := hkeep (decode_ne_reset_of_rst_low hrst) hh
  obtain ⟨hcut, hend⟩ := ih huh
  rw [cutOffOf_next ws hu, hcut, hh]
  exact ⟨rfl, hend⟩

/-- A run without RESET is cut off by a halt at most once, and then not in COLLECTING at its end. -/
theorem cutOffOf_add_collectingNow_le {ws : List Cmd} {s t : State} (hn : noReset ws) (h : runCmds ws s = .next t) :
    cutOffOf ws s + collectingNow t ≤ 1 := by
  induction ws generalizing s with
  | nil =>
    simp only [cutOffOf, stepsOf_nil, List.countP_nil, collectingNow]
    split <;> omega
  | cons w ws ih =>
    obtain ⟨u, hu, hrest⟩ := runCmds_cons_next h
    have hn' : noReset ws := fun v hv => hn v (by simp [hv])
    rw [cutOffOf_next ws hu]
    by_cases hcut : (s.fsm == Fsm.collecting && u.fsm == Fsm.halted) = true
    · obtain ⟨-, huh⟩ : s.fsm = Fsm.collecting ∧ u.fsm = Fsm.halted := by simpa using hcut
      obtain ⟨hzero, hend⟩ := cutOffOf_halted hn' huh hrest
      simp [hcut, hzero, collectingNow, hend]
    · rw [Bool.not_eq_true] at hcut
      simpa [hcut] using ih hn' hrest

/-- The consumed bytes the attempt in progress has taken, its boundary's last byte among them. -/
def attemptBytes (s : State) : Nat := if s.fsm = Fsm.collecting then s.pktCnt.toNat + 1 else 0

/-- The same with the three marker bytes before it: outside COLLECTING those stored in the window. -/
def markerAndAttemptBytes (s : State) : Nat := if s.fsm = Fsm.collecting then s.pktCnt.toNat + 4 else s.win.length

/-- The number of bytes a step consumes. -/
def consumedCount (i : Instr) (s : State) : Nat := (consumedByte i s).toList.length

theorem consumedOf_cons_next {w : Cmd} {s t : State} (ws : List Cmd) (h : exec (decode w) s = .next t) :
    consumedOf (w :: ws) s = consumedCount (decode w) s + consumedOf ws t := by
  rw [consumedOf, consumedBytes_cons_next ws h, List.length_append]
  rfl

theorem consumedCount_byte (d : Byte) {s : State} (h : s.fsm ≠ Fsm.halted) : consumedCount (.byte d) s = 1 := by
  rw [consumedCount, consumedByte_byte d h]
  rfl

theorem syncObserve_length_le_succ (w : List Byte) (d : Byte) : (syncObserve w d).2.length ≤ w.length + 1 := by
  unfold syncObserve syncObserveWith
  split
  · split
    · split <;> simp
    · simp
  · simp

/-- The measure of a consumed byte, by the rules R129, R130 and R131: it grows by at most one byte, and a record uses up
61 of it, or 64 with the marker. -/
theorem consumeByte_attemptBytes {s t : State} {d : Byte} (hr : Running s)
    (ht : consumeByte d (clearStrobes s) = .next t) :
    61 * t.oRecValid.toNat + attemptBytes t ≤ attemptBytes s + 1 ∧
      (t.oRecValid = true → attemptBytes t = 0 ∧ 64 ≤ markerAndAttemptBytes s + 1) ∧
      markerAndAttemptBytes t ≤ markerAndAttemptBytes s + 1 := by
  have hwin := syncObserve_length_le_succ s.win d
  have hwin3 := syncObserve_length d hr.legal.win
  rcases consumeByte_running hr ht with ⟨hb, rfl⟩ | ⟨-, hf, rfl⟩ | ⟨-, hf, hc, rfl⟩ | ⟨-, hf, hc, rfl⟩
  · have h3 : 3 ≤ s.win.length := by
      by_contra hlt
      rw [isBoundary, syncObserve_short_no_hit d (by omega)] at hb
      cases hb
    refine ⟨by simp [attemptBytes], nofun, ?_⟩
    simp only [markerAndAttemptBytes, takeBoundary_fsm, takeBoundary_pktCnt, if_true, BitVec.toNat_ofNat]
    split <;> omega
  · exact ⟨by simp [attemptBytes, hf], nofun, by simpa [markerAndAttemptBytes, hf] using hwin⟩
  · have hcnt := toNat_pktCnt_succ hc
    exact ⟨by simp [attemptBytes, hf, hcnt], nofun, by simp [markerAndAttemptBytes, hf, hcnt]⟩
  · have hrec := Bool.toNat_le (packetOk (packetWith s.buf d))
    have hw : (syncObserve s.win d).2.length ≤ 64 := by omega
    refine ⟨?_, ?_, ?_⟩
    · simp [attemptBytes, hf, hc, afterCompletion]
      omega
    · simp [attemptBytes, markerAndAttemptBytes, hf, hc, afterCompletion]
    · simpa [markerAndAttemptBytes, hf, hc, afterCompletion] using hw

/-- The measure of any step. -/
theorem exec_attemptBytes {i : Instr} {s t : State} (h : exec i s = .next t) :
    61 * t.oRecValid.toNat + attemptBytes t ≤ attemptBytes s + consumedCount i s ∧
      (t.oRecValid = true → attemptBytes t = 0 ∧ 64 ≤ markerAndAttemptBytes s + consumedCount i s) ∧
      markerAndAttemptBytes t ≤ markerAndAttemptBytes s + consumedCount i s := by
  have hhalt : ∀ (c : BitVec 2), Running s → markerAndAttemptBytes (halt c (clearStrobes s)) ≤
      markerAndAttemptBytes s := by
    intro c hr
    have := hr.legal.win
    simp only [markerAndAttemptBytes, halt_fsm, halt_win, clearStrobes_win, Fsm.halted_ne_collecting, if_false]
    split <;> omega
  rcases exec_cases h with
    ⟨-, rfl⟩ | ⟨-, -, hh, rfl⟩ | ⟨hr, -, rfl⟩ | ⟨hr, -, rfl⟩ | ⟨hr, -, rfl⟩ | ⟨hr, d, rfl, ht⟩
  · simp [attemptBytes, markerAndAttemptBytes]
  · simp [attemptBytes, markerAndAttemptBytes, hh]
  · exact ⟨by simp [attemptBytes], nofun, (hhalt _ hr).trans (Nat.le_add_right _ _)⟩
  · exact ⟨by simp [attemptBytes], nofun, (hhalt _ hr).trans (Nat.le_add_right _ _)⟩
  · exact ⟨(Nat.zero_add _).le.trans (Nat.le_add_right _ _), nofun, Nat.le_add_right _ _⟩
  · rw [consumedCount_byte d hr.notHalted]
    exact consumeByte_attemptBytes hr ht

/-- Each record of a run takes 61 bytes, those of the attempt in progress counted. -/
theorem records_attemptBytes (ws : List Cmd) (s : State) :
    61 * (recordsOf ws s).length ≤ attemptBytes s + consumedOf ws s := by
  induction ws generalizing s with
  | nil => simp [recordsOf]
  | cons w ws ih =>
    rcases exec_next_or_fault (decode w) s with ⟨t, ht⟩ | ⟨f, hi, hf⟩
    · obtain ⟨hstep, -, -⟩ := exec_attemptBytes ht
      have := ih t
      rw [length_recordsOf_next ws ht, consumedOf_cons_next ws ht]
      omega
    · simp [recordsOf_fault ws (exec_fault hi hf)]

/-- And the first of them takes 3 more, those of its marker counted. -/
theorem records_markerAndAttemptBytes (ws : List Cmd) (s : State) (h : recordsOf ws s ≠ []) :
    61 * (recordsOf ws s).length + 3 ≤ markerAndAttemptBytes s + consumedOf ws s := by
  induction ws generalizing s with
  | nil => exact absurd rfl h
  | cons w ws ih =>
    rcases exec_next_or_fault (decode w) s with ⟨t, ht⟩ | ⟨f, hi, hf⟩
    · obtain ⟨-, hfirst, hstep⟩ := exec_attemptBytes ht
      rw [recordsOf_next ws ht] at h
      rw [length_recordsOf_next ws ht, consumedOf_cons_next ws ht]
      cases hv : t.oRecValid with
      | true =>
        obtain ⟨hzero, h64⟩ := hfirst hv
        have := records_attemptBytes ws t
        simp only [Bool.toNat_true]
        omega
      | false =>
        have := ih t (by simpa [hv] using h)
        simp only [Bool.toNat_false]
        omega
    · exact absurd (recordsOf_fault ws (exec_fault hi hf)) h

end Sys2Proof.Machine
end

section
/-! The statements of 44_record_output.md, 45_operations.md section 3 and 70_reset_and_hazards.md about runs. -/

open Sys2Proof Sys2Proof.Machine

/-- Settles O56: the first step clears the strobes, and every further one leaves the state as it is. -/
theorem noRunWithoutResetLeavesHalted : Obligations.NoRunWithoutResetLeavesHalted := by
  intro ws s hl hh hn hne
  cases ws with
  | nil => exact absurd rfl hne
  | cons w ws =>
    obtain ⟨hstep, -, hc⟩ := haltedAbsorbsAllButReset s w hl hh (hn w (by simp))
    have hw : exec (decode w) s = .next (clearStrobes s) := hstep
    obtain ⟨hrun, hrec, hsync, hcons⟩ :=
      run_halted_clear (ws := ws) (legal_clearStrobes hl) hh (fun v hv => hn v (by simp [hv])) rfl
    rw [runCmds_next _ hw, recordsOf_next _ hw, syncsOf_next _ hw, consumedOf_next _ hw, hc, hrec, hsync, hcons]
    exact ⟨hrun, rfl, rfl, rfl⟩

/-- Settles O58: the accounts of the steps add up (`attempts_step`); no attempt is open at the start. -/
theorem everyPacketAttemptIsAccountedFor : Obligations.EveryPacketAttemptIsAccountedFor := by
  intro ws s t _ hf hn h
  refine ⟨?_, cutOffOf_add_collectingNow_le hn h⟩
  have hsum : syncsOf ws s + collectingNow s = (recordsOf ws s).length + abandonedOf ws s + mismatchedOf ws s +
      (cutOffOf ws s + collectingNow t) := by
    refine run_induction (P := fun ws s t => syncsOf ws s + collectingNow s = (recordsOf ws s).length +
      abandonedOf ws s + mismatchedOf ws s + (cutOffOf ws s + collectingNow t)) (fun s => ?_) ?_ hn h
    · simp [syncsOf, recordsOf, abandonedOf, mismatchedOf, cutOffOf]
    · intro w ws s u t hrst hu ih
      have := attempts_step (decode_ne_reset_of_rst_low hrst) hu
      rw [syncsOf_next ws hu, length_recordsOf_next ws hu, abandonedOf_next ws hu, mismatchedOf_next ws hu,
        cutOffOf_next ws hu]
      omega
  have hopen : collectingNow s = 0 := by simp [collectingNow, hf]
  rwa [hopen] at hsum

/-- Settles O59: outside COLLECTING no attempt has taken a byte, and an empty window holds none of a marker. -/
theorem recordsAreAtLeastSixtyOneBytesApart : Obligations.RecordsAreAtLeastSixtyOneBytesApart := by
  intro ws s _ hf
  have hstart : attemptBytes s = 0 := by simp [attemptBytes, hf]
  refine ⟨by simpa [hstart] using records_attemptBytes ws s, fun hwin hne => ?_⟩
  have hmarker : markerAndAttemptBytes s = 0 := by simp [markerAndAttemptBytes, hf, hwin]
  simpa [hmarker] using records_markerAndAttemptBytes ws s hne

end

section
/-! SUPPORT. Runs of BYTE words from a running state: they complete and consume every byte; the marker opens a packet,
and bytes without a boundary fill it (rules R91, R94, R129). -/

namespace Sys2Proof.Machine

open Sys2Proof

theorem decode_byte (d : Byte) : decode (encode (.byte d)) = .byte d := by
  obtain ⟨hdec, -⟩ := decodeEncodeAgree
  exact hdec _

theorem byteCmds_cons (d : Byte) (ds : List Byte) : byteCmds (d :: ds) = encode (.byte d) :: byteCmds ds := rfl

theorem byteCmds_append (ds es : List Byte) : byteCmds (ds ++ es) = byteCmds ds ++ byteCmds es := List.map_append

theorem noReset_byteCmds (ds : List Byte) : noReset (byteCmds ds) := by
  intro w hw
  obtain ⟨d, -, rfl⟩ := List.mem_map.mp hw
  obtain ⟨-, -, -, hbyte, -⟩ := decodeFollowsPortPriority (encode (.byte d))
  exact ((hbyte d).mp (decode_byte d)).1

/-- A consumed byte leaves a running state, and is the byte consumed. -/
theorem exec_byte_running (d : Byte) {s : State} (h : Running s) :
    ∃ t, exec (decode (encode (.byte d))) s = .next t ∧ Running t := by
  obtain ⟨t, ht⟩ := consumeByte_next (s := clearStrobes s) d h.legal.pktCnt
  have he : exec (.byte d) s = .next t := by rw [exec_byte, running_not_halted h.legal h.notHalted, ht]
  refine ⟨t, by rw [decode_byte, he], exec_legal he, ?_⟩
  rcases consumeByte_running h ht with ⟨-, rfl⟩ | ⟨-, hf, rfl⟩ | ⟨-, hf, -, rfl⟩ | ⟨-, -, -, rfl⟩
  · simp
  · simp [hf]
  · simp [hf]
  · simp [afterCompletion]

/-- A run of bytes completes in a running state and consumes them all. -/
theorem runCmds_byteCmds (ds : List Byte) {s : State} (h : Running s) :
    ∃ t, runCmds (byteCmds ds) s = .next t ∧ Running t ∧ consumedBytes (byteCmds ds) s = ds := by
  induction ds generalizing s with
  | nil => exact ⟨s, rfl, h, rfl⟩
  | cons d ds ih =>
    obtain ⟨u, hu, hru⟩ := exec_byte_running d h
    obtain ⟨t, ht, hrt, hc⟩ := ih hru
    refine ⟨t, by rw [byteCmds_cons, runCmds_next _ hu, ht], hrt, ?_⟩
    rw [byteCmds_cons, consumedBytes_cons_next _ hu, hc, decode_byte, consumedByte_byte d h.notHalted]
    rfl

theorem runCmds_byteCmds_append {ds es : List Byte} {s t u : State} (h1 : runCmds (byteCmds ds) s = .next t)
    (h2 : runCmds (byteCmds es) t = .next u) : runCmds (byteCmds (ds ++ es)) s = .next u := by
  rw [byteCmds_append, runCmds_append h1, h2]

theorem runCmds_byteCmds_singleton {d : Byte} {s t : State} (h : exec (.byte d) s = .next t) :
    runCmds (byteCmds [d]) s = .next t := by
  rw [byteCmds_cons, runCmds_next _ (by rw [decode_byte, h])]
  rfl

theorem running_of_byteCmds {ds : List Byte} {s t : State} (h : Running s) (ht : runCmds (byteCmds ds) s = .next t) :
    Running t := by
  obtain ⟨u, hu, hru, -⟩ := runCmds_byteCmds ds h
  rw [ht, Host.Outcome.next.injEq] at hu
  exact hu ▸ hru

/-- What a run of bytes leaves in the window and in `sync_count`, and the boundaries it sees. -/
theorem byteCmds_detector {ds : List Byte} {s t : State} (h : Running s) (ht : runCmds (byteCmds ds) s = .next t) :
    t.win = (syncObserveAll s.win ds).2 ∧ syncsOf (byteCmds ds) s = (syncObserveAll s.win ds).1.count true ∧
      t.syncCount = s.syncCount + BitVec.ofNat 32 ((syncObserveAll s.win ds).1.count true) := by
  obtain ⟨-, -, -, hc⟩ := runCmds_byteCmds ds h
  obtain ⟨hwin, hsyncs⟩ := detectorFollowsTheConsumedStream _ s t (noReset_byteCmds ds) ht
  obtain ⟨-, hcount⟩ := countersCountTheObservation _ s t (noReset_byteCmds ds) ht
  rw [hc] at hwin hsyncs
  rw [hsyncs] at hcount
  exact ⟨hwin, hsyncs, hcount⟩

/-- The marker from any window of at most 3 bytes: one hit, at its last byte. -/
theorem syncObserveAll_markerBytes {w : List Byte} (hw : w.length ≤ 3) :
    syncObserveAll w Config.markerBytes = ([false, false, false, true], []) := by
  obtain ⟨-, hmarker⟩ := markerIsFoundFromAnyWindow
  exact hmarker w [] [] [] hw (by simp)

/-- The marker's first three bytes fill the window with themselves. -/
theorem syncObserveAll_marker_start {w : List Byte} (hw : w.length ≤ 3) :
    (syncObserveAll w [0xEF#8, 0xFF#8, 0xEF#8]).2 = [0xEF#8, 0xFF#8, 0xEF#8] := by
  obtain ⟨w1, w2, h1, h2, h3, -⟩ := syncObserveWith_markerBytes (alphabet := Config.syncAlphabet) (by decide) hw
  simp only [syncObserveAll_cons, syncObserveAll_nil, syncObserve, h1, h2, h3]

/-- The bytes of the packet in progress, in offset order. -/
def storedBytes (s : State) : List Byte := (List.range s.pktCnt.toNat).map (Memory.read s.buf)

theorem storedBytes_of_pktCnt_zero {s : State} (h : s.pktCnt = 0#6) : storedBytes s = [] := by
  simp [storedBytes, h]

theorem packetWith_eq_storedBytes {s : State} (h : s.pktCnt = 59#6) (d : Byte) :
    packetWith s.buf d = storedBytes s ++ [d] := by
  simp [storedBytes, packetWith, h, Config.pktSize]

/-- A byte stored at `pkt_cnt` is appended to the packet in progress (rule R91). -/
theorem storedBytes_write {s t : State} {d : Byte} (hbuf : t.buf = Memory.write s.buf s.pktCnt.toNat d)
    (hcnt : t.pktCnt.toNat = s.pktCnt.toNat + 1) : storedBytes t = storedBytes s ++ [d] := by
  have hbelow : (List.range s.pktCnt.toNat).map (Memory.read (Memory.write s.buf s.pktCnt.toNat d)) =
      (List.range s.pktCnt.toNat).map (Memory.read s.buf) :=
    List.map_congr_left fun a ha => Memory.read_write_other _ d (List.mem_range.mp ha).ne'
  rw [storedBytes, hcnt, hbuf, List.range_succ, List.map_append, hbelow, List.map_singleton, Memory.read_write_same]
  rfl

/-- Bytes without a boundary, fewer than complete the packet, are appended to it. -/
theorem runCmds_collecting {ds : List Byte} {s : State} (h : Running s) (hf : s.fsm = Fsm.collecting)
    (hlen : s.pktCnt.toNat + ds.length ≤ 59) (hno : ∀ b ∈ (syncObserveAll s.win ds).1, b = false) :
    ∃ t, runCmds (byteCmds ds) s = .next t ∧ t.fsm = Fsm.collecting ∧ t.pktCnt.toNat = s.pktCnt.toNat + ds.length ∧
      storedBytes t = storedBytes s ++ ds := by
  induction ds generalizing s with
  | nil => exact ⟨s, rfl, hf, rfl, (List.append_nil _).symm⟩
  | cons d ds ih =>
    rw [List.length_cons] at hlen
    have hc : s.pktCnt.toNat < 59 := by omega
    have hb : isBoundary s d = false := hno _ (by simp [isBoundary])
    obtain ⟨u, hu, hru⟩ := exec_byte_running d h
    have hstore := collectingByteIsStored s d h hf hb hc
    rw [decode_byte, hstore, Host.Outcome.next.injEq] at hu
    have hucnt : u.pktCnt.toNat = s.pktCnt.toNat + 1 := by
      rw [← hu]
      exact toNat_pktCnt_succ hc
    obtain ⟨t, ht, htf, htcnt, htb⟩ := ih (s := u) hru (by rw [← hu]; exact hf) (by omega) fun b hb => by
      rw [← hu] at hb
      exact hno b (by simp [hb])
    refine ⟨t, ?_, htf, by rw [htcnt, hucnt, List.length_cons]; omega, ?_⟩
    · rw [byteCmds_cons, runCmds_next _ (by rw [decode_byte, hstore, hu]), ht]
    · rw [htb, storedBytes_write (d := d) (by rw [← hu]) hucnt, List.append_assoc, List.singleton_append]

/-- From an empty packet, 60 bytes without a boundary are one: it is completed by the last of them, and handed off when
it validates (rules R91, R131). -/
theorem runCmds_sixty_bytes {s : State} {p : List Byte} (h : Running s) (hf : s.fsm = Fsm.collecting)
    (hc : s.pktCnt = 0#6) (hp : p.length = 60) (hno : ∀ b ∈ (syncObserveAll s.win p).1, b = false) :
    ∃ t, runCmds (byteCmds p) s = .next t ∧ t.fsm = Fsm.seekingSync ∧ t.pktCnt = 0#6 ∧ t.oSync = false ∧
      t.oRecValid = packetOk p ∧ (packetOk p = true → t.oRec = packRecord p) := by
  rcases List.eq_nil_or_concat' p with rfl | ⟨q, d, rfl⟩
  · cases hp
  have hq : q.length = 59 := by simpa using hp
  rw [syncObserveAll_append] at hno
  obtain ⟨u, hu, huf, huc, hub⟩ := runCmds_collecting (ds := q) h hf (by simp [hc, hq]) fun b hb => hno b (by simp [hb])
  obtain ⟨huw, -, -⟩ := byteCmds_detector h hu
  have hb : isBoundary u d = false := by
    rw [isBoundary, huw]
    exact hno _ (by simp)
  have huc' : u.pktCnt = 59#6 := BitVec.eq_of_toNat_eq (by rw [huc, hc, hq]; rfl)
  have hpacket : packetWith u.buf d = q ++ [d] := by
    rw [packetWith_eq_storedBytes huc', hub, storedBytes_of_pktCnt_zero hc, List.nil_append]
  have hlast := sixtiethByteDecodesAndValidates u d (running_of_byteCmds h hu) huf hb huc'
  rw [hpacket] at hlast
  exact ⟨_, runCmds_byteCmds_append hu (runCmds_byteCmds_singleton hlast), rfl, rfl, rfl, rfl, fun hok => if_pos hok⟩

end Sys2Proof.Machine
end

section
/-! The statements of 40_sync_detector.md section 2 and 45_operations.md section 2 about a framed packet. -/

open Sys2Proof Sys2Proof.Machine

/-- Settles O52: the marker's first three bytes fill the window, and the fourth is a boundary. -/
theorem markerBytesOpenAPacket : Obligations.MarkerBytesOpenAPacket := by
  intro s hr
  obtain ⟨u, hu, hru, -⟩ := runCmds_byteCmds [0xEF#8, 0xFF#8, 0xEF#8] hr
  obtain ⟨huwin, -, -⟩ := byteCmds_detector hr hu
  rw [syncObserveAll_marker_start hr.legal.win] at huwin
  have hb : isBoundary u 0xFE#8 = true := by
    rw [isBoundary, huwin]
    decide
  have hrun := runCmds_byteCmds_append hu (runCmds_byteCmds_singleton (boundaryByteStartsAPacket u 0xFE#8 hru hb))
  have hmarker : [0xEF#8, 0xFF#8, 0xEF#8] ++ [0xFE#8] = Config.markerBytes := rfl
  rw [hmarker] at hrun
  obtain ⟨-, hsyncs, hcount⟩ := byteCmds_detector hr hrun
  rw [syncObserveAll_markerBytes hr.legal.win] at hsyncs hcount
  exact ⟨_, hrun, rfl, rfl, rfl, rfl, rfl, hcount, hsyncs⟩

/-- Settles O53: the marker opens a packet, which the 60 bytes fill and complete; the detector sees the marker's
boundary alone. -/
theorem framedPacketIsReceivedWhole : Obligations.FramedPacketIsReceivedWhole := by
  intro s p hr hp hno
  obtain ⟨u, hu, huf, huc, huw, -⟩ := markerBytesOpenAPacket s hr
  obtain ⟨t, ht, htf, htc, hts, htv, htrec⟩ :=
    runCmds_sixty_bytes (running_of_byteCmds hr hu) huf huc hp (by rw [huw]; exact hno)
  have hrun := runCmds_byteCmds_append hu ht
  obtain ⟨hwin, -, hcount⟩ := byteCmds_detector hr hrun
  have hhits : (syncObserveAll [] p).1.count true = 0 := List.count_eq_zero.mpr fun hmem => by cases hno _ hmem
  rw [syncObserveAll_append, syncObserveAll_markerBytes hr.legal.win] at hwin hcount
  rw [List.count_append, hhits] at hcount
  exact ⟨t, hrun, htf, htc, hwin, hts, hcount, htv, htrec⟩

end
